-- ==== Sys2Proof/Word.lean ====
section
/-! DEFINITION. The word types of the packet encoder: bytes, the 16-bit data value, the 24-bit
packet word W = B0 : B1 : B2 (00_scope.md R10), and a finalized packet (10_state.md R29). -/

namespace Sys2Proof

/-- One byte, bit 7 the most significant (R9). -/
abbrev Byte := BitVec 8

/-- The 16-bit data value, every value legal (R65). -/
abbrev Half := BitVec 16

/-- The 24-bit packet word W, with W[23:16] = B0, W[15:8] = B1 and W[7:0] = B2 (R10). -/
abbrev PacketWord := BitVec 24

/-- A finalized packet: three bytes in transmission order (R29, R60). -/
structure Packet where
  b0 : Byte
  b1 : Byte
  b2 : Byte
deriving DecidableEq, Repr, Inhabited

end Sys2Proof
end

