-- ==== Sys2Proof/Config.lean ====
section
/-! DEFINITION. What the source leaves open: the OPEN parameters of 00_scope.md R8, the results of
the two transport capabilities (42_device_operations.md R160, R175) with their OPEN error types, and the
free values. Nothing
here gives a value to an open parameter: the opaque constants have no body a proof can see. -/

namespace Sys2Proof

/-- The level of the chip-select line (R30). `low` is active, `high` inactive (R162). -/
inductive Level where
  | low
  | high
deriving DecidableEq, Repr, Inhabited

/-- Which numbers beside 0 name a transmission failure. Open: no value of it can be proved, so neither can
how many failures there are (log entry 5; safe). -/
opaque Config.isTxError : Nat → Bool

/-- Which numbers beside 0 name a pin-control failure; as `Config.isTxError` (log entry 5; safe). -/
opaque Config.isPinError : Nat → Bool

/-- TxError, an OPEN type (R8, R175, R191; decision D15): the failures of transmission. Its extent is that of
the opaque `Config.isTxError`, so it stands for every type with at least one value whose values can be
numbered. The token tells two failures apart and nothing more; no definition of the model reads it
(DESIGN CHOICE of the form, log entry 5; safe). -/
structure TxError where
  token : Nat
  named : token = 0 ∨ Config.isTxError token = true
deriving DecidableEq, Repr

/-- PinError, an OPEN type (R8, R175, R191; decision D15): the failures of pin control, of the opaque extent
`Config.isPinError`, as `TxError` (DESIGN CHOICE of the form, log entry 5; safe). -/
structure PinError where
  token : Nat
  named : token = 0 ∨ Config.isPinError token = true
deriving DecidableEq, Repr

/-- The result of one `Send` call (R160). -/
inductive SendResult where
  | ok
  | err (t : TxError)
deriving DecidableEq, Repr, Inhabited

/-- The result of one `SetCS` call (R160). After a failed call the line stands at `left`, any level:
93_implementation_defined.md U11 for a failed release; for a failed assertion the spec states no
level (DESIGN CHOICE, log entry 7; safe). -/
inductive PinResult where
  | ok
  | err (p : PinError) (left : Level)
deriving DecidableEq, Repr, Inhabited

/-- CS_INITIAL_LEVEL (R31). -/
inductive InitialLevel where
  | low
  | high
  | unknown
deriving DecidableEq, Repr, Inhabited

/-- GAIN_CODE on the three modes the source leaves open (R72): one constructor for each injective
assignment into {0, 2, 3}. The digits are the codes of A1B1, A2B1 and A2B2, in that order. The
instantiation the spec suggests is `c320`. -/
inductive GainAssignment where
  | c023
  | c032
  | c203
  | c230
  | c302
  | c320
deriving DecidableEq, Repr, Inhabited

/-- The OPEN parameters a model takes as arguments (R8). -/
structure Params where
  /-- GAIN_CODE (R72). -/
  gainCodes : GainAssignment
  /-- SURFACE_RELEASE_ERROR (R166). -/
  surfaceReleaseError : Bool
  /-- CS_INITIAL_LEVEL (R31). -/
  csInitialLevel : InitialLevel
deriving DecidableEq, Repr, Inhabited

/-- The parameters of the machine at hand. Open: no value of it can be proved (log entries 1, 3, 4; safe). -/
opaque Config.params : Params

/-- The chip-select level at reset where CS_INITIAL_LEVEL is Unknown (R31; log entry 4; safe). -/
opaque Config.unknownLevel : Level

/-- The result of the n-th `Send` call where the state lists no draw for it (R175; log entry 6; safe). -/
opaque Config.freeSendResult : Nat → SendResult

/-- The result of the n-th `SetCS` call where the state lists no draw for it (R175; log entry 6; safe). -/
opaque Config.freePinResult : Nat → PinResult

end Sys2Proof
end

