-- ==== Sys2Proof/Syntax.lean ====
section
/-! DEFINITION. The closed enumerations of the encoder's inputs (00_scope.md R13), the instructions
(one constructor per row of opcode_table.json), the rows themselves, and the requests a client
presents (30_encoding.md R78). -/

namespace Sys2Proof

/-- Operation selector (R63). -/
inductive Op where
  | writeN
  | swLatch
  | wuAll
  | wuN
  | power
  | reset
  | ldacCtrl
  | refCtrl
deriving DecidableEq, Repr, Inhabited

/-- Address field values (R64). -/
inductive Addr where
  | a
  | b
  | gain
  | ab
deriving DecidableEq, Repr, Inhabited

/-- The addresses a data write takes (R64, R130). -/
inductive Channel where
  | a
  | b
  | ab
deriving DecidableEq, Repr, Inhabited

/-- Gain modes (R72; the enumeration is the spec's reading, log entry 2). -/
inductive GainMode where
  | a1b1
  | a1b2
  | a2b1
  | a2b2
deriving DecidableEq, Repr, Inhabited

/-- Power modes (R67). -/
inductive PowerMode where
  | up
  | pd1k
  | pd100k
  | hiz
deriving DecidableEq, Repr, Inhabited

/-- Power selectors (R68). -/
inductive PowerSel where
  | a
  | b
  | ab
deriving DecidableEq, Repr, Inhabited

/-- Reset modes (R69). -/
inductive ResetMode where
  | input
  | all
deriving DecidableEq, Repr, Inhabited

/-- Latch (software-LDAC) modes (R70). -/
inductive LdacMode where
  | ldacAll
  | ldacB
  | ldacA
  | ldacNone
deriving DecidableEq, Repr, Inhabited

/-- Internal-reference control (R71). -/
inductive Ref where
  | disable
  | enable
deriving DecidableEq, Repr, Inhabited

/-- The writable fields of the packet buffer (R23, R100). RSV is no member: nothing writes it (R24). -/
inductive Field where
  | cmd
  | addr
  | data
  | pdMode
  | pdSel
  | gain
  | ldacMode
  | rstMode
  | ref
deriving DecidableEq, Repr, Inhabited

/-- The instructions, one constructor per row of opcode_table.json. -/
inductive Instr where
  -- packet rows: the encode operations (R130 to R138)
  | writeN (ch : Channel) (v : Half)
  | writeGain (g : GainMode)
  | swLatch
  | wuAll (ch : Channel) (v : Half)
  | wuN (ch : Channel) (v : Half)
  | power (m : PowerMode) (sel : PowerSel)
  | reset (r : ResetMode)
  | ldacCtrl (l : LdacMode)
  | refCtrl (e : Ref)
  -- field_write rows: the builder operations (R103 to R113)
  | new
  | setCmd (op : Op)
  | setAddr (adr : Addr)
  | setData (v : Half)
  | setGain (g : GainMode)
  | setPdMode (m : PowerMode)
  | setPdSel (sel : PowerSel)
  | setRstMode (r : ResetMode)
  | setLdacMode (l : LdacMode)
  | setRef (e : Ref)
  | finalize
  -- device_op rows: the device operations (R168 to R171)
  | devInit
  | devSetPower (m : PowerMode) (sel : PowerSel)
  | devWrite (v : Half) (ch : Channel)
  | devLatch
deriving DecidableEq, Repr, Inhabited

/-- The rows of opcode_table.json, by name alone. -/
inductive Row where
  | writeN
  | writeGain
  | swLatch
  | wuAll
  | wuN
  | power
  | reset
  | ldacCtrl
  | refCtrl
  | new
  | setCmd
  | setAddr
  | setData
  | setGain
  | setPdMode
  | setPdSel
  | setRstMode
  | setLdacMode
  | setRef
  | finalize
  | devInit
  | devSetPower
  | devWrite
  | devLatch
deriving DecidableEq, Repr, Inhabited

/-- Why the decoder rejects bits (30_encoding.md R60, R75). -/
inductive Reject where
  /-- Not the three bytes of the one packet length (R60, R77). -/
  | notThreeBytes
  /-- Class (a) of R75: W[23:22] is not 0. -/
  | reservedBits
  /-- Class (b) of R75: ADDR is 3, 4, 5 or 6. -/
  | unusedAddress
  /-- Class (c) of R75: a word of the builder set that no encode operation produces. -/
  | builderOnly
  /-- Bits offered as a row's whose fixed bits are not that row's. -/
  | fixedBits
  /-- Bits offered as a row's that hold a code with no enumerator (R64, R68). -/
  | operandNotEnumerated
deriving DecidableEq, Repr, Inhabited

/-- One request of the client. Requests are typed calls and have no binary encoding in the source
(R78); the other forms are the model's (log entries 8, 11, 12, 13). -/
inductive Request where
  /-- A typed call (R7, R13, R78). -/
  | call (i : Instr)
  /-- A table row with its operand bits placed as opcode_table.json places them (log entry 13). -/
  | row (r : Row) (w : PacketWord)
  /-- The bytes of a packet: the request is the encode operation that produces them (R75; log entry 13). -/
  | bytes (bs : List Byte)
  /-- TXN of a packet the client holds (R163, R174; log entry 11). -/
  | txn (p : Packet)
  /-- A call presented while an operation is still in progress (R51, R226; log entry 12). -/
  | overlapping (i : Instr)
deriving DecidableEq, Repr, Inhabited

end Sys2Proof
end

