-- ==== Sys2Proof/Machine/Operands.lean ====
section
/-! DEFINITION. The integer code of every enumerated operand (30_encoding.md R63 to R72), the codes
read back, and the bytes of a packet word (00_scope.md R10, 20_memory.md R42). -/

namespace Sys2Proof

/-- Code of an operation selector (R63; codes 2, 3 and 5 are the spec's decision D4, log entry 15). -/
def Op.code : Op → BitVec 3
  | .writeN => 0
  | .swLatch => 1
  | .wuAll => 2
  | .wuN => 3
  | .power => 4
  | .reset => 5
  | .ldacCtrl => 6
  | .refCtrl => 7

/-- Code of an address (R64). -/
def Addr.code : Addr → BitVec 3
  | .a => 0
  | .b => 1
  | .gain => 2
  | .ab => 7

/-- A channel as an address (R64: Channel is a subset of Addr). -/
def Channel.addr : Channel → Addr
  | .a => .a
  | .b => .b
  | .ab => .ab

/-- Code of a channel: its address code (R64). -/
def Channel.code (ch : Channel) : BitVec 3 := ch.addr.code

/-- Code of a power mode (R67; codes 1 and 3 are the spec's decision D5, log entry 16). -/
def PowerMode.code : PowerMode → BitVec 2
  | .up => 0
  | .pd1k => 1
  | .pd100k => 2
  | .hiz => 3

/-- Code of a power selector (R68); the code 0 has no enumerator. -/
def PowerSel.code : PowerSel → BitVec 2
  | .a => 1
  | .b => 2
  | .ab => 3

/-- Code of a reset mode (R69). -/
def ResetMode.code : ResetMode → BitVec 1
  | .input => 0
  | .all => 1

/-- Code of a latch mode (R70). -/
def LdacMode.code : LdacMode → BitVec 2
  | .ldacAll => 0
  | .ldacB => 1
  | .ldacA => 2
  | .ldacNone => 3

/-- Code of a reference control (R71). -/
def Ref.code : Ref → BitVec 1
  | .disable => 0
  | .enable => 1

/-- The code an assignment gives A1B1. -/
def GainAssignment.a1b1 : GainAssignment → BitVec 2
  | .c023 => 0
  | .c032 => 0
  | .c203 => 2
  | .c230 => 2
  | .c302 => 3
  | .c320 => 3

/-- The code an assignment gives A2B1. -/
def GainAssignment.a2b1 : GainAssignment → BitVec 2
  | .c023 => 2
  | .c032 => 3
  | .c203 => 0
  | .c230 => 3
  | .c302 => 0
  | .c320 => 2

/-- The code an assignment gives A2B2. -/
def GainAssignment.a2b2 : GainAssignment → BitVec 2
  | .c023 => 3
  | .c032 => 2
  | .c203 => 3
  | .c230 => 0
  | .c302 => 2
  | .c320 => 0

/-- GAIN_CODE (R72): A1B2 is fixed at 1, the other modes have the open assignment's codes. -/
def gainCode (t : GainAssignment) : GainMode → BitVec 2
  | .a1b1 => t.a1b1
  | .a1b2 => 1
  | .a2b1 => t.a2b1
  | .a2b2 => t.a2b2

/-- The enumerator with a given code, found in the list of all of them. -/
def findCode {α : Type} {n : Nat} (all : List α) (code : α → BitVec n) (c : BitVec n) : Option α :=
  all.find? fun a => code a == c

/-- The operation of a CMD code; every code has one (R63). -/
def Op.ofCode (c : BitVec 3) : Option Op :=
  findCode [.writeN, .swLatch, .wuAll, .wuN, .power, .reset, .ldacCtrl, .refCtrl] Op.code c

/-- The address of an ADDR code; 3 to 6 have none (R64). -/
def Addr.ofCode (c : BitVec 3) : Option Addr := findCode [.a, .b, .gain, .ab] Addr.code c

/-- The channel of an ADDR code; 2 to 6 have none (R64). -/
def Channel.ofCode (c : BitVec 3) : Option Channel := findCode [.a, .b, .ab] Channel.code c

/-- The power mode of a PD_MODE code (R67). -/
def PowerMode.ofCode (c : BitVec 2) : Option PowerMode :=
  findCode [.up, .pd1k, .pd100k, .hiz] PowerMode.code c

/-- The power selector of a PD_SEL code; 0 has none (R68). -/
def PowerSel.ofCode (c : BitVec 2) : Option PowerSel := findCode [.a, .b, .ab] PowerSel.code c

/-- The reset mode of a RST_MODE code (R69). -/
def ResetMode.ofCode (c : BitVec 1) : Option ResetMode := findCode [.input, .all] ResetMode.code c

/-- The latch mode of an LDAC_MODE code (R70). -/
def LdacMode.ofCode (c : BitVec 2) : Option LdacMode :=
  findCode [.ldacAll, .ldacB, .ldacA, .ldacNone] LdacMode.code c

/-- The reference control of a REF code (R71). -/
def Ref.ofCode (c : BitVec 1) : Option Ref := findCode [.disable, .enable] Ref.code c

/-- The gain mode of a GAIN code: GAIN_CODE is a bijection onto the 2-bit codes (R72). Code 1 is
looked at first, so that A1B2 is read without knowing the open assignment. -/
def gainOfCode (t : GainAssignment) (c : BitVec 2) : GainMode :=
  if c = 1 then .a1b2
  else if c = t.a1b1 then .a1b1
  else if c = t.a2b1 then .a2b1
  else .a2b2

/-- The bytes of a packet word in transmission order: W[23:16], W[15:8], W[7:0] (R10, R113). -/
def packetOfWord (w : PacketWord) : Packet :=
  ⟨w.extractLsb' 16 8, w.extractLsb' 8 8, w.extractLsb' 0 8⟩

/-- The word W = B0 : B1 : B2 of a packet (R10). -/
def wordOfPacket (p : Packet) : PacketWord := p.b0 ++ p.b1 ++ p.b2

/-- The bytes of a packet in the order they go on the wire (R43). -/
def packetBytes (p : Packet) : List Byte := [p.b0, p.b1, p.b2]

end Sys2Proof
end

