-- ==== Sys2Proof/WellFormed.lean ====
section
/-! DEFINITION. Well-formedness: of instructions, which their closed operand types already give
(00_scope.md R13, 30_encoding.md R64), and of packet words, the two sets of 30_encoding.md R74 and
the classes of R75, written from the table of R73 and not from the decoder. -/

namespace Sys2Proof

/-- Every instruction is well formed: a code with no enumerator is not representable as an operand
(R13; 92_eei_decisions.md D12), and every 16-bit value is legal (R65). -/
def Instr.wellFormed : Instr → Bool
  | .writeN _ _ => true
  | .writeGain _ => true
  | .swLatch => true
  | .wuAll _ _ => true
  | .wuN _ _ => true
  | .power _ _ => true
  | .reset _ => true
  | .ldacCtrl _ => true
  | .refCtrl _ => true
  | .new => true
  | .setCmd _ => true
  | .setAddr _ => true
  | .setData _ => true
  | .setGain _ => true
  | .setPdMode _ => true
  | .setPdSel _ => true
  | .setRstMode _ => true
  | .setLdacMode _ => true
  | .setRef _ => true
  | .finalize => true
  | .devInit => true
  | .devSetPower _ _ => true
  | .devWrite _ _ => true
  | .devLatch => true

/-- W[23:22] = 0: not class (a) of R75 (R24, R62). -/
def reservedClear (w : PacketWord) : Bool := w.extractLsb' 22 2 == 0

/-- W[18:16] is one of 0, 1, 2, 7: not class (b) of R75 (R64). -/
def addressEnumerated (w : PacketWord) : Bool :=
  [0, 1, 2, 7].contains (w.extractLsb' 16 3)

/-- The words the builder operations can return (R74, second set). -/
def isBuilderWord (w : PacketWord) : Bool := reservedClear w && addressEnumerated w

/-- W[18:16] is a Channel code, 0, 1 or 7 (the field values of R73). -/
def addressIsChannel (w : PacketWord) : Bool := [0, 1, 7].contains (w.extractLsb' 16 3)

/-- The words the encode operations can return (R74, first set): one disjunct per row of R73, in
its order, the fixed bits of the W pattern and the field values. -/
def isEncodeWord (w : PacketWord) : Bool :=
  (w.extractLsb' 19 5 == 0 && addressIsChannel w)
    || w.extractLsb' 2 22 == 0b0000001000000000000000
    || w == 0x0F0000
    || (w.extractLsb' 19 5 == 2 && addressIsChannel w)
    || (w.extractLsb' 19 5 == 3 && addressIsChannel w)
    || (w.extractLsb' 6 18 == 0b001000000000000000 && w.extractLsb' 2 2 == 0
        && w.extractLsb' 0 2 != 0)
    || w.extractLsb' 1 23 == 0b00101000000000000000000
    || w.extractLsb' 2 22 == 0b0011000000000000000000
    || w.extractLsb' 1 23 == 0b00111000000000000000000

end Sys2Proof
end

