-- ==== Sys2Proof/Decode.lean ====
section
/-! DEFINITION. The decoder and the encoder, both written from opcode_table.json: each row's fixed
bits and operand letters. `decodePacket` is the decoder of 30_encoding.md R75: it reads a packet word
as the encode operation that produces it. `decodeRow` reads the operand bits of a row already chosen,
for every row of the table (R78). `encode` places an instruction's operands as its row does. -/

namespace Sys2Proof

/-- The decoder's answer: an instruction, or a rejection by name. -/
inductive Decoded where
  | instr (i : Instr)
  | reject (why : Reject)
deriving DecidableEq, Repr, Inhabited

/-- The row of opcode_table.json an instruction belongs to. -/
def rowOf : Instr → Row
  | .writeN _ _ => .writeN
  | .writeGain _ => .writeGain
  | .swLatch => .swLatch
  | .wuAll _ _ => .wuAll
  | .wuN _ _ => .wuN
  | .power _ _ => .power
  | .reset _ => .reset
  | .ldacCtrl _ => .ldacCtrl
  | .refCtrl _ => .refCtrl
  | .new => .new
  | .setCmd _ => .setCmd
  | .setAddr _ => .setAddr
  | .setData _ => .setData
  | .setGain _ => .setGain
  | .setPdMode _ => .setPdMode
  | .setPdSel _ => .setPdSel
  | .setRstMode _ => .setRstMode
  | .setLdacMode _ => .setLdacMode
  | .setRef _ => .setRef
  | .finalize => .finalize
  | .devInit => .devInit
  | .devSetPower _ _ => .devSetPower
  | .devWrite _ _ => .devWrite
  | .devLatch => .devLatch

/-- A row's mask: 1 where its encoding has a 0 or a 1 (opcode_table.json; R73 for the packet rows).
A setter's row, and FINALIZE's, has no fixed bit: its other bits are '-', left unchanged (R78). -/
def Row.mask : Row → PacketWord
  | .writeN => 0xF80000
  | .writeGain => 0xFFFFFC
  | .swLatch => 0xFFFFFF
  | .wuAll => 0xF80000
  | .wuN => 0xF80000
  | .power => 0xFFFFCC
  | .reset => 0xFFFFFE
  | .ldacCtrl => 0xFFFFFC
  | .refCtrl => 0xFFFFFE
  | .new => 0xFFFFFF
  | .setCmd => 0
  | .setAddr => 0
  | .setData => 0
  | .setGain => 0
  | .setPdMode => 0
  | .setPdSel => 0
  | .setRstMode => 0
  | .setLdacMode => 0
  | .setRef => 0
  | .finalize => 0
  | .devInit => 0xFFFFFF
  | .devSetPower => 0xFFFFCC
  | .devWrite => 0xF80000
  | .devLatch => 0xFFFFFF

/-- A row's fixed bits, 0 where its mask is 0 (opcode_table.json; R73 for the packet rows). -/
def Row.pattern : Row → PacketWord
  | .writeN => 0x000000
  | .writeGain => 0x020000
  | .swLatch => 0x0F0000
  | .wuAll => 0x100000
  | .wuN => 0x180000
  | .power => 0x200000
  | .reset => 0x280000
  | .ldacCtrl => 0x300000
  | .refCtrl => 0x380000
  | .new => 0
  | .setCmd => 0
  | .setAddr => 0
  | .setData => 0
  | .setGain => 0
  | .setPdMode => 0
  | .setPdSel => 0
  | .setRstMode => 0
  | .setLdacMode => 0
  | .setRef => 0
  | .finalize => 0
  | .devInit => 0x280001
  | .devSetPower => 0x200000
  | .devWrite => 0x000000
  | .devLatch => 0x0F0000

/-- W[21:19] (R61). -/
def cmdBits (w : PacketWord) : BitVec 3 := w.extractLsb' 19 3

/-- W[18:16] (R61). -/
def addrBits (w : PacketWord) : BitVec 3 := w.extractLsb' 16 3

/-- W[15:0], the data form of the payload (R65). -/
def dataBits (w : PacketWord) : Half := w.extractLsb' 0 16

/-- B2[5:4] (R66). -/
def modeBits (w : PacketWord) : BitVec 2 := w.extractLsb' 4 2

/-- B2[1:0] (R66). -/
def lowBits (w : PacketWord) : BitVec 2 := w.extractLsb' 0 2

/-- B2[0] (R66). -/
def lowBit (w : PacketWord) : BitVec 1 := w.extractLsb' 0 1

/-- The instruction of a row whose operand bits are those of `w`; `none` where a code has no
enumerator. -/
def Row.read (t : GainAssignment) (w : PacketWord) : Row → Option Instr
  | .writeN => (Channel.ofCode (addrBits w)).map fun ch => .writeN ch (dataBits w)
  | .writeGain => some (.writeGain (gainOfCode t (lowBits w)))
  | .swLatch => some .swLatch
  | .wuAll => (Channel.ofCode (addrBits w)).map fun ch => .wuAll ch (dataBits w)
  | .wuN => (Channel.ofCode (addrBits w)).map fun ch => .wuN ch (dataBits w)
  | .power => (PowerMode.ofCode (modeBits w)).bind fun m =>
      (PowerSel.ofCode (lowBits w)).map fun sel => .power m sel
  | .reset => (ResetMode.ofCode (lowBit w)).map .reset
  | .ldacCtrl => (LdacMode.ofCode (lowBits w)).map .ldacCtrl
  | .refCtrl => (Ref.ofCode (lowBit w)).map .refCtrl
  | .new => some .new
  | .setCmd => (Op.ofCode (cmdBits w)).map .setCmd
  | .setAddr => (Addr.ofCode (addrBits w)).map .setAddr
  | .setData => some (.setData (dataBits w))
  | .setGain => some (.setGain (gainOfCode t (lowBits w)))
  | .setPdMode => (PowerMode.ofCode (modeBits w)).map .setPdMode
  | .setPdSel => (PowerSel.ofCode (lowBits w)).map .setPdSel
  | .setRstMode => (ResetMode.ofCode (lowBit w)).map .setRstMode
  | .setLdacMode => (LdacMode.ofCode (lowBits w)).map .setLdacMode
  | .setRef => (Ref.ofCode (lowBit w)).map .setRef
  | .finalize => some .finalize
  | .devInit => some .devInit
  | .devSetPower => (PowerMode.ofCode (modeBits w)).bind fun m =>
      (PowerSel.ofCode (lowBits w)).map fun sel => .devSetPower m sel
  | .devWrite => (Channel.ofCode (addrBits w)).map fun ch => .devWrite (dataBits w) ch
  | .devLatch => some .devLatch

/-- The bits of `w` read as row `r`. -/
def decodeRow (t : GainAssignment) (r : Row) (w : PacketWord) : Decoded :=
  if w &&& r.mask = r.pattern then
    match r.read t w with
    | some i => .instr i
    | none => .reject .operandNotEnumerated
  else .reject .fixedBits

/-- The packet rows, in the order of R73. -/
def packetRows : List Row :=
  [.writeN, .writeGain, .swLatch, .wuAll, .wuN, .power, .reset, .ldacCtrl, .refCtrl]

/-- The first of the rows that reads `w`; class (c) of R75 where none does. -/
def decodeAmong (t : GainAssignment) (w : PacketWord) : List Row → Decoded
  | [] => .reject .builderOnly
  | r :: rs =>
    match decodeRow t r w with
    | .instr i => .instr i
    | .reject _ => decodeAmong t w rs

/-- The decoder of R75: the encode operation that produces the word, or the class of the words that
no encode operation produces. -/
def decodePacket (t : GainAssignment) (w : PacketWord) : Decoded :=
  if reservedClear w = false then .reject .reservedBits
  else if addressEnumerated w = false then .reject .unusedAddress
  else decodeAmong t w packetRows

/-- The decoder on bytes: a packet is exactly three bytes, B0 first (R60, R77). -/
def decodeBytes (t : GainAssignment) : List Byte → Decoded
  | [b0, b1, b2] => decodePacket t (wordOfPacket ⟨b0, b1, b2⟩)
  | _ => .reject .notThreeBytes

/-- The encoder: the operands in the places of the row's letters, 0 in its '-' places. Each line reads
as the row's encoding, from bit 23 down. -/
def encode (t : GainAssignment) : Instr → PacketWord
  | .writeN ch v => 0b00000#5 ++ ch.code ++ v
  | .writeGain g => 0b0000001000000000000000#22 ++ gainCode t g
  | .swLatch => 0b000011110000000000000000#24
  | .wuAll ch v => 0b00010#5 ++ ch.code ++ v
  | .wuN ch v => 0b00011#5 ++ ch.code ++ v
  | .power m sel => 0b001000000000000000#18 ++ m.code ++ 0b00#2 ++ sel.code
  | .reset r => 0b00101000000000000000000#23 ++ r.code
  | .ldacCtrl l => 0b0011000000000000000000#22 ++ l.code
  | .refCtrl e => 0b00111000000000000000000#23 ++ e.code
  | .new => 0b000000000000000000000000#24
  | .setCmd op => 0b00#2 ++ op.code ++ 0#19
  | .setAddr adr => 0b00000#5 ++ adr.code ++ 0#16
  | .setData v => 0#8 ++ v
  | .setGain g => 0#22 ++ gainCode t g
  | .setPdMode m => 0#18 ++ m.code ++ 0#4
  | .setPdSel sel => 0#22 ++ sel.code
  | .setRstMode r => 0#23 ++ r.code
  | .setLdacMode l => 0#22 ++ l.code
  | .setRef e => 0#23 ++ e.code
  | .finalize => 0#24
  | .devInit => 0b001010000000000000000001#24
  | .devSetPower m sel => 0b001000000000000000#18 ++ m.code ++ 0b00#2 ++ sel.code
  | .devWrite v ch => 0b00000#5 ++ ch.code ++ v
  | .devLatch => 0b000011110000000000000000#24

/-- The low `n` bytes of a number, the most significant first. -/
def bytesOfNat : Nat → Nat → List Byte
  | 0, _ => []
  | n + 1, w => bytesOfNat n (w / 256) ++ [BitVec.ofNat 8 w]

/-- An opcode-table word laid out in bytes, B0 first. The table numbers the bits of W (bit 0 is B2[0]),
so the low `nbits` bits of `w` are W and the bits above them are 0 (log entry 13). -/
def tableBytes (nbits w : Nat) : List Byte :=
  bytesOfNat (max 3 ((nbits + 7) / 8)) (w % 2 ^ nbits)

/-- What the decoder reads from an instruction whose bits are `w` in opcode_table.json's numbering. It
reads a PACKET, so a word that rows of two formats share answers with its packet row (log entry 13). -/
def decodeTableWord (nbits w : Nat) : Option Instr :=
  match decodeBytes Config.params.gainCodes (tableBytes nbits w) with
  | .instr i => some i
  | .reject _ => none

end Sys2Proof
end

