-- ==== Sys2Proof/Machine/State.lean ====
section
/-! DEFINITION. The state of the encoder (10_state.md) and of its environment, the reasons a request is
refused, and the state after reset (10_state.md R33, 70_reset_and_hazards.md R220). -/

namespace Sys2Proof.Machine

/-- The build phase (R21). The 24-bit buffer exists only while a build is in progress. -/
inductive Phase where
  | idle
  | building (pkt : PacketWord)
deriving DecidableEq, Repr, Inhabited

/-- The two error kinds (R191), each with the opaque value the capability returned (R193). -/
inductive DeviceError where
  | tx (t : TxError)
  | pin (p : PinError)
deriving DecidableEq, Repr

/-- What a device operation returns (R161). -/
inductive DeviceResult where
  | ok
  | err (e : DeviceError)
deriving DecidableEq, Repr, Inhabited

/-- What is handed to the client: a finalized packet (R29, R113), or a device operation's result. A
setter returns the builder itself and nothing else (R101). -/
inductive Reply where
  | packet (p : Packet)
  | device (r : DeviceResult)
deriving DecidableEq, Repr, Inhabited

/-- One call of a transport capability, with its result (R160). -/
inductive WireEvent where
  | setCs (l : Level) (r : PinResult)
  | send (b : Byte) (r : SendResult)
deriving DecidableEq, Repr, Inhabited

/-- The machine. `phase` is the encoder's only state (R20, R21); `cs` is the controller's (R30);
`params` are the OPEN parameters (R8), which nothing writes; the rest is the model's own account of the
environment (log entries 6, 8, 9 and 21). -/
structure State where
  params    : Params
  phase     : Phase
  cs        : Level
  /-- The client's requests, the next one first. -/
  requests  : List Request
  /-- What the client has been handed, the latest last. -/
  replies   : List Reply
  /-- The transport calls made, the latest last. -/
  wire      : List WireEvent
  /-- The results of the next `Send` calls; the free value where the list is empty (R175). -/
  sendDraws : List SendResult
  /-- The results of the next `SetCS` calls; the free value where the list is empty (R175). -/
  pinDraws  : List PinResult
  /-- How many `Send` calls have been made; it indexes the free values. -/
  sendCalls : Nat
  /-- How many `SetCS` calls have been made; it indexes the free values. -/
  pinCalls  : Nat
deriving DecidableEq, Repr

/-- The machine has no fault: no encoder operation raises an exception (R190), there is no trap (R196),
and a transport failure is a value a device operation returns (R191). Nothing raises one (log entry 14). -/
inductive Fault where
deriving DecidableEq, Repr

/-- Why a request is refused. Every refusal is safe: the run ends, and no state is given after it. -/
inductive Refusal where
  /-- An instruction with no meaning yet, by its mnemonic. Raised by `exec`'s arms only. Safe. -/
  | notModelled (mnemonic : String)
  /-- A setter or FINALIZE while Idle (R102, NoBuild). Safe. -/
  | noBuild
  /-- NEW while Building, and any operation whose expansion starts with NEW (R102, BuildInProgress;
  log entry 10). Safe. -/
  | buildInProgress
  /-- A request that overlaps an operation in progress (R51, R226). Raised by `step`. Safe. -/
  | overlappingRequest
  /-- Bits that no operation produces (R75; 93_implementation_defined.md U2). Raised by `step`. Safe. -/
  | notProduced (why : Reject)
deriving DecidableEq, Repr

/-- The chip-select level an initial level stands for (R31): Unknown is the free level. -/
def InitialLevel.toLevel : InitialLevel → Level
  | .low => .low
  | .high => .high
  | .unknown => Config.unknownLevel

/-- The state after reset under given parameters (R33, R220): Idle, no buffer, CS at CS_INITIAL_LEVEL.
The model's own fields start empty (DESIGN CHOICE, log entry 9). -/
def State.resetWith (p : Params) : State where
  params := p
  phase := .idle
  cs := InitialLevel.toLevel p.csInitialLevel
  requests := []
  replies := []
  wire := []
  sendDraws := []
  pinDraws := []
  sendCalls := 0
  pinCalls := 0

/-- The state after reset of the machine at hand. -/
def State.reset : State := State.resetWith Config.params

end Sys2Proof.Machine
end

