-- ==== Sys2Proof/Machine/Flags.lean ====
section
/-! DEFINITION. The encoder has no flags, condition codes or status bits (10_state.md R27). The one
status an operation yields is a device operation's result, computed here (60_exceptions.md R195). -/

namespace Sys2Proof.Machine

/-- Result(err, rel) (R195): the first error, whether of the assertion or of a byte; otherwise a failed
release where SURFACE_RELEASE_ERROR holds; otherwise Ok. -/
def txnResult (surface : Bool) (err : Option DeviceError) (rel : PinResult) : DeviceResult :=
  match err with
  | some e => .err e
  | none =>
    match rel with
    | .ok => .ok
    | .err p _ => if surface then .err (.pin p) else .ok

end Sys2Proof.Machine
end

