-- ==== Sys2Proof/Machine/Ops.lean ====
section
/-! DEFINITION. The shared operations: the masked field write (40_builder_ops.md R100), the start, the
setters and the end of a build (R102, R103, R113), the packets of the encode operations
(41_command_encoders.md), and the framed transaction TXN (42_device_operations.md R163). The block
takes no exception and has no return from one (60_exceptions.md R196, R197). -/

namespace Sys2Proof.Machine

/-! ## Named updates of the state -/

/-- Enter a phase. -/
def State.withPhase (s : State) (p : Phase) : State := { s with phase := p }

/-- Hand a reply to the client. -/
def State.addReply (s : State) (r : Reply) : State := { s with replies := s.replies ++ [r] }

/-! ## The masked field write -/

/-- M_F (R100). The masks of the B2 subfields are the spec's decision D7 (log entry 17). -/
def fieldMask : Field → PacketWord
  | .cmd => 0x380000
  | .addr => 0x070000
  | .data => 0x00FFFF
  | .pdMode => 0x000030
  | .pdSel => 0x000003
  | .gain => 0x000003
  | .ldacMode => 0x000003
  | .rstMode => 0x000001
  | .ref => 0x000001

/-- s_F (R100). -/
def fieldShift : Field → Nat
  | .cmd => 19
  | .addr => 16
  | .data => 0
  | .pdMode => 4
  | .pdSel => 0
  | .gain => 0
  | .ldacMode => 0
  | .rstMode => 0
  | .ref => 0

/-- The width of a field (R23). -/
def fieldWidth : Field → Nat
  | .cmd => 3
  | .addr => 3
  | .data => 16
  | .pdMode => 2
  | .pdSel => 2
  | .gain => 2
  | .ldacMode => 2
  | .rstMode => 1
  | .ref => 1

/-- FieldWrite(F, v) (R100): the field is cleared, then ORed with the masked value. -/
def fieldWrite (f : Field) {n : Nat} (v : BitVec n) (pkt : PacketWord) : PacketWord :=
  (pkt &&& ~~~(fieldMask f)) ||| ((v.setWidth 24 <<< fieldShift f) &&& fieldMask f)

/-- The buffer NEW creates (R103, R221). -/
def newBuffer : PacketWord := 0

/-! ## A build -/

/-- NEW (R103): `require Phase = Idle`. -/
def startBuild (s : State) : Host.Outcome State Fault Refusal :=
  match s.phase with
  | .idle => .next (s.withPhase (.building newBuffer))
  | .building _ => .refused .buildInProgress

/-- A setter of field `f` (R100, R101, R102). -/
def setField (f : Field) {n : Nat} (v : BitVec n) (s : State) : Host.Outcome State Fault Refusal :=
  match s.phase with
  | .idle => .refused .noBuild
  | .building pkt => .next (s.withPhase (.building (fieldWrite f v pkt)))

/-- FINALIZE (R113): `require Phase = Building(pkt)`; the packet goes to the client. -/
def finishBuild (s : State) : Host.Outcome State Fault Refusal :=
  match s.phase with
  | .idle => .refused .noBuild
  | .building pkt => .next ((s.withPhase .idle).addReply (.packet (packetOfWord pkt)))

/-- An operation whose expansion builds the whole packet `w`, from NEW to FINALIZE, and then uses it.
The build ends in Idle, so it leaves the encoder's state as it was; in Building its NEW is refused
(R102; log entry 10). -/
def withBuiltPacket (w : PacketWord) (use : Packet → State → State) (s : State) :
    Host.Outcome State Fault Refusal :=
  match s.phase with
  | .idle => .next (use (packetOfWord w) s)
  | .building _ => .refused .buildInProgress

/-- An encode operation returns its packet to the client (41_command_encoders.md). -/
def replyPacket (p : Packet) (s : State) : State := s.addReply (.packet p)

/-! ## The buffers the encode operations build, setter by setter (R130 to R138) -/

/-- `SET_CMD op; SET_ADDR ch; SET_DATA v` on the new buffer (R130, R133, R134). -/
def buildData (op : Op) (ch : Channel) (v : Half) : PacketWord :=
  fieldWrite .data v (fieldWrite .addr ch.addr.code (fieldWrite .cmd op.code newBuffer))

/-- `SET_CMD WRITE_N; SET_ADDR GAIN; SET_GAIN g` (R131). -/
def buildGain (t : GainAssignment) (g : GainMode) : PacketWord :=
  fieldWrite .gain (gainCode t g) (fieldWrite .addr Addr.gain.code (fieldWrite .cmd Op.writeN.code newBuffer))

/-- `SET_CMD SW_LATCH; SET_ADDR AB` (R132). -/
def buildSwLatch : PacketWord :=
  fieldWrite .addr Addr.ab.code (fieldWrite .cmd Op.swLatch.code newBuffer)

/-- `SET_CMD POWER; SET_PD_MODE m; SET_PD_SEL s` (R135). -/
def buildPower (m : PowerMode) (sel : PowerSel) : PacketWord :=
  fieldWrite .pdSel sel.code (fieldWrite .pdMode m.code (fieldWrite .cmd Op.power.code newBuffer))

/-- `SET_CMD RESET; SET_RST_MODE r` (R136). -/
def buildReset (r : ResetMode) : PacketWord :=
  fieldWrite .rstMode r.code (fieldWrite .cmd Op.reset.code newBuffer)

/-- `SET_CMD LDAC_CTRL; SET_LDAC_MODE l` (R137). -/
def buildLdac (l : LdacMode) : PacketWord :=
  fieldWrite .ldacMode l.code (fieldWrite .cmd Op.ldacCtrl.code newBuffer)

/-- `SET_CMD REF_CTRL; SET_REF e` (R138). -/
def buildRef (e : Ref) : PacketWord :=
  fieldWrite .ref e.code (fieldWrite .cmd Op.refCtrl.code newBuffer)

/-! ## The transport capabilities -/

/-- The result of the k-th `SetCS` call from here (R175): the listed draw, or the free value. -/
def State.pinDraw (s : State) (k : Nat) : PinResult :=
  match s.pinDraws.drop k with
  | r :: _ => r
  | [] => Config.freePinResult (s.pinCalls + k)

/-- The result of the k-th `Send` call from here (R175): the listed draw, or the free value. -/
def State.sendDraw (s : State) (k : Nat) : SendResult :=
  match s.sendDraws.drop k with
  | r :: _ => r
  | [] => Config.freeSendResult (s.sendCalls + k)

/-- Where the line stands after `SetCS(l)`: at `l`, or where a failed call leaves it (U11; log entry 7). -/
def levelAfter (l : Level) : PinResult → Level
  | .ok => l
  | .err _ left => left

/-- The state after `SetCS(l)`; its result was `s.pinDraw 0` (R160). -/
def State.afterSetCs (s : State) (l : Level) : State :=
  { s with
    cs := levelAfter l (s.pinDraw 0)
    wire := s.wire ++ [.setCs l (s.pinDraw 0)]
    pinDraws := s.pinDraws.drop 1
    pinCalls := s.pinCalls + 1 }

/-- The state after `Send(b)`; its result was `s.sendDraw 0` (R160). -/
def State.afterSend (s : State) (b : Byte) : State :=
  { s with
    wire := s.wire ++ [.send b (s.sendDraw 0)]
    sendDraws := s.sendDraws.drop 1
    sendCalls := s.sendCalls + 1 }

/-! ## The framed transaction -/

/-- The bytes in order, up to and including the first whose `Send` fails (R163, R165). -/
def sendBytes : List Byte → State → Option DeviceError × State
  | [], s => (none, s)
  | b :: bs, s =>
    match s.sendDraw 0 with
    | .ok => sendBytes bs (s.afterSend b)
    | .err t => (some (.tx t), s.afterSend b)

/-- TXN's assertion and bytes, before the release: no byte is sent after a failed assertion (R167,
decision D13; log entry 18). -/
def assertAndSend (p : Packet) (s : State) : Option DeviceError × State :=
  match s.pinDraw 0 with
  | .ok => sendBytes (packetBytes p) (s.afterSetCs .low)
  | .err e _ => (some (.pin e), s.afterSetCs .low)

/-- TXN(pkt) (R163): assertion and bytes, then the release, on every path once (R164), then the result
(R195), which goes to the client. -/
def runTxn (p : Packet) (s : State) : State :=
  ((assertAndSend p s).2.afterSetCs .high).addReply
    (.device (txnResult s.params.surfaceReleaseError (assertAndSend p s).1
      ((assertAndSend p s).2.pinDraw 0)))

end Sys2Proof.Machine
end

