-- ==== Sys2Proof/Machine/Builder.lean ====
section
/-! DEFINITION. The meanings of the builder operations (40_builder_ops.md R103 to R113). -/

namespace Sys2Proof.Machine

/-- NEW (R103). -/
def execNew (s : State) : Host.Outcome State Fault Refusal := startBuild s

/-- SET_CMD (R104). -/
def execSetCmd (op : Op) (s : State) : Host.Outcome State Fault Refusal := setField .cmd op.code s

/-- SET_ADDR (R105). -/
def execSetAddr (adr : Addr) (s : State) : Host.Outcome State Fault Refusal := setField .addr adr.code s

/-- SET_DATA (R106). -/
def execSetData (v : Half) (s : State) : Host.Outcome State Fault Refusal := setField .data v s

/-- SET_GAIN (R107): the code is GAIN_CODE's, a parameter (R72). -/
def execSetGain (g : GainMode) (s : State) : Host.Outcome State Fault Refusal :=
  setField .gain (gainCode s.params.gainCodes g) s

/-- SET_PD_MODE (R108). -/
def execSetPdMode (m : PowerMode) (s : State) : Host.Outcome State Fault Refusal :=
  setField .pdMode m.code s

/-- SET_PD_SEL (R109). -/
def execSetPdSel (sel : PowerSel) (s : State) : Host.Outcome State Fault Refusal :=
  setField .pdSel sel.code s

/-- SET_RST_MODE (R110). -/
def execSetRstMode (r : ResetMode) (s : State) : Host.Outcome State Fault Refusal :=
  setField .rstMode r.code s

/-- SET_LDAC_MODE (R111). -/
def execSetLdacMode (l : LdacMode) (s : State) : Host.Outcome State Fault Refusal :=
  setField .ldacMode l.code s

/-- SET_REF (R112). -/
def execSetRef (e : Ref) (s : State) : Host.Outcome State Fault Refusal := setField .ref e.code s

/-- FINALIZE (R113). -/
def execFinalize (s : State) : Host.Outcome State Fault Refusal := finishBuild s

end Sys2Proof.Machine
end

