-- ==== Sys2Proof/Machine/Device.lean ====
section
/-! DEFINITION. The meanings of the device operations: one encode operation, then one framed
transaction (42_device_operations.md R168 to R171). The packet goes to the transport, not to the client. -/

namespace Sys2Proof.Machine

/-- initialize (R168): `TXN(ENC_RESET(ALL))`. -/
def execDevInit (s : State) : Host.Outcome State Fault Refusal :=
  withBuiltPacket (buildReset .all) runTxn s

/-- set_power (R169): `TXN(ENC_POWER(mode, selector))`. -/
def execDevSetPower (m : PowerMode) (sel : PowerSel) (s : State) : Host.Outcome State Fault Refusal :=
  withBuiltPacket (buildPower m sel) runTxn s

/-- write (R170): `TXN(ENC_WRITE_N(channel, value))`. -/
def execDevWrite (v : Half) (ch : Channel) (s : State) : Host.Outcome State Fault Refusal :=
  withBuiltPacket (buildData .writeN ch v) runTxn s

/-- latch (R171): `TXN(ENC_SW_LATCH())`. -/
def execDevLatch (s : State) : Host.Outcome State Fault Refusal :=
  withBuiltPacket buildSwLatch runTxn s

end Sys2Proof.Machine
end

