-- ==== Sys2Proof/Machine/Encoders.lean ====
section
/-! DEFINITION. The meanings of the encode operations, one per packet kind (41_command_encoders.md R130
to R138). -/

namespace Sys2Proof.Machine

/-- ENC_WRITE_N (R130). The value is placed unchanged (log entry 25). -/
def execWriteN (ch : Channel) (v : Half) (s : State) : Host.Outcome State Fault Refusal :=
  withBuiltPacket (buildData .writeN ch v) replyPacket s

/-- ENC_WRITE_GAIN (R131). -/
def execWriteGain (g : GainMode) (s : State) : Host.Outcome State Fault Refusal :=
  withBuiltPacket (buildGain s.params.gainCodes g) replyPacket s

/-- ENC_SW_LATCH (R132). -/
def execSwLatch (s : State) : Host.Outcome State Fault Refusal :=
  withBuiltPacket buildSwLatch replyPacket s

/-- ENC_WU_ALL (R133). -/
def execWuAll (ch : Channel) (v : Half) (s : State) : Host.Outcome State Fault Refusal :=
  withBuiltPacket (buildData .wuAll ch v) replyPacket s

/-- ENC_WU_N (R134). -/
def execWuN (ch : Channel) (v : Half) (s : State) : Host.Outcome State Fault Refusal :=
  withBuiltPacket (buildData .wuN ch v) replyPacket s

/-- ENC_POWER (R135). -/
def execPower (m : PowerMode) (sel : PowerSel) (s : State) : Host.Outcome State Fault Refusal :=
  withBuiltPacket (buildPower m sel) replyPacket s

/-- ENC_RESET (R136). -/
def execReset (r : ResetMode) (s : State) : Host.Outcome State Fault Refusal :=
  withBuiltPacket (buildReset r) replyPacket s

/-- ENC_LDAC_CTRL (R137). -/
def execLdacCtrl (l : LdacMode) (s : State) : Host.Outcome State Fault Refusal :=
  withBuiltPacket (buildLdac l) replyPacket s

/-- ENC_REF_CTRL (R138). -/
def execRefCtrl (e : Ref) (s : State) : Host.Outcome State Fault Refusal :=
  withBuiltPacket (buildRef e) replyPacket s

end Sys2Proof.Machine
end

