-- ==== Sys2Proof/Machine/Dispatch.lean ====
section
/-! DEFINITION. One arm per instruction, each one call of its meaning. -/

namespace Sys2Proof.Machine

def exec (i : Instr) (s : State) : Host.Outcome State Fault Refusal :=
  match i with
  -- encode operations (packet rows)
  | .writeN ch v => Sys2Proof.Machine.execWriteN ch v s
  | .writeGain g => Sys2Proof.Machine.execWriteGain g s
  | .swLatch => Sys2Proof.Machine.execSwLatch s
  | .wuAll ch v => Sys2Proof.Machine.execWuAll ch v s
  | .wuN ch v => Sys2Proof.Machine.execWuN ch v s
  | .power m sel => Sys2Proof.Machine.execPower m sel s
  | .reset r => Sys2Proof.Machine.execReset r s
  | .ldacCtrl l => Sys2Proof.Machine.execLdacCtrl l s
  | .refCtrl e => Sys2Proof.Machine.execRefCtrl e s
  -- builder operations (field_write rows)
  | .new => Sys2Proof.Machine.execNew s
  | .setCmd op => Sys2Proof.Machine.execSetCmd op s
  | .setAddr adr => Sys2Proof.Machine.execSetAddr adr s
  | .setData v => Sys2Proof.Machine.execSetData v s
  | .setGain g => Sys2Proof.Machine.execSetGain g s
  | .setPdMode m => Sys2Proof.Machine.execSetPdMode m s
  | .setPdSel sel => Sys2Proof.Machine.execSetPdSel sel s
  | .setRstMode r => Sys2Proof.Machine.execSetRstMode r s
  | .setLdacMode l => Sys2Proof.Machine.execSetLdacMode l s
  | .setRef e => Sys2Proof.Machine.execSetRef e s
  | .finalize => Sys2Proof.Machine.execFinalize s
  -- device operations (device_op rows)
  | .devInit => Sys2Proof.Machine.execDevInit s
  | .devSetPower m sel => Sys2Proof.Machine.execDevSetPower m sel s
  | .devWrite v ch => Sys2Proof.Machine.execDevWrite v ch s
  | .devLatch => Sys2Proof.Machine.execDevLatch s

end Sys2Proof.Machine
end

