-- ==== Sys2Proof/Machine/Request.lean ====
section
/-! DEFINITION. How a request of the client becomes work: the instruction it names, TXN of a packet it
holds, or a refusal (10_state.md R26, 20_memory.md R51, 30_encoding.md R75, 42_device_operations.md R174). -/

namespace Sys2Proof.Machine

/-- What a request asks for. -/
inductive Work where
  | run (i : Instr)
  | frame (p : Packet)
  | refuse (r : Refusal)
deriving DecidableEq, Repr

/-- The work of the decoder's answer: a rejected word is one no operation produces (R75, U2). -/
def workOfDecoded : Decoded → Work
  | .instr i => .run i
  | .reject why => .refuse (.notProduced why)

/-- The work of a request. TXN takes a packet the client holds: one FINALIZE can return, so a word of
the builder set (R74; log entry 11). An overlapping request is refused (R51, R226; log entry 12). -/
def workOf (t : GainAssignment) : Request → Work
  | .call i => .run i
  | .row r w => workOfDecoded (decodeRow t r w)
  | .bytes bs => workOfDecoded (decodeBytes t bs)
  | .txn p =>
    if reservedClear (wordOfPacket p) = false then .refuse (.notProduced .reservedBits)
    else if addressEnumerated (wordOfPacket p) = false then .refuse (.notProduced .unusedAddress)
    else .frame p
  | .overlapping _ => .refuse .overlappingRequest

/-- Take the next request off the client's sequence. -/
def State.withRequests (s : State) (rs : List Request) : State := { s with requests := rs }

/-- The request that stands for an opcode-table word: its packet bytes, to be decoded (log entry 13). -/
def requestOfTableWord (nbits w : Nat) : Request := .bytes (tableBytes nbits w)

end Sys2Proof.Machine
end

