-- ==== Sys2Proof/Machine/Step.lean ====
section
/-! DEFINITION. One step: the next request, performed as it is presented (10_state.md R26, 20_memory.md
R50). With no request the machine stays as it is (log entry 8). -/

namespace Sys2Proof.Machine

/-- One request, from first to last: it completes before the next is looked at (R7, R50). -/
def step (s : State) : Host.Outcome State Fault Refusal :=
  match s.requests with
  | [] => .next s
  | r :: rest =>
    match workOf s.params.gainCodes r with
    | .run i => exec i (s.withRequests rest)
    | .frame p => .next (runTxn p (s.withRequests rest))
    | .refuse why => .refused why

/-- `s` with an opcode-table word presented as its next request, before those it already has. -/
def State.withFetchWord (s : State) (nbits w : Nat) : State :=
  s.withRequests (requestOfTableWord nbits w :: s.requests)

end Sys2Proof.Machine
end

