-- ==== Sys2Proof/Safety.lean ====
section
/-! DEFINITION. The terms claims are stated in: a client's sequence of calls, the classes of
instructions, the invariant of the encoder, and the chip-select discipline of the wire. -/

namespace Sys2Proof.Machine

/-! ## Sequences of calls -/

/-- A client's calls in program order (20_memory.md R50), stopping at the first refusal. -/
def runCalls : List Instr → State → Host.Outcome State Fault Refusal
  | [], s => .next s
  | i :: is, s =>
    match exec i s with
    | .next s' => runCalls is s'
    | .fault f => .fault f
    | .refused r => .refused r

/-! ## Classes of instructions -/

/-- The field a setter writes (R104 to R112); `none` for the other instructions. -/
def setterField : Instr → Option Field
  | .setCmd _ => some .cmd
  | .setAddr _ => some .addr
  | .setData _ => some .data
  | .setGain _ => some .gain
  | .setPdMode _ => some .pdMode
  | .setPdSel _ => some .pdSel
  | .setRstMode _ => some .rstMode
  | .setLdacMode _ => some .ldacMode
  | .setRef _ => some .ref
  | .writeN _ _ | .writeGain _ | .swLatch | .wuAll _ _ | .wuN _ _ | .power _ _ | .reset _
  | .ldacCtrl _ | .refCtrl _ | .new | .finalize | .devInit | .devSetPower _ _ | .devWrite _ _
  | .devLatch => none

/-- The device operations (R161). -/
def isDeviceOp : Instr → Bool
  | .devInit | .devSetPower _ _ | .devWrite _ _ | .devLatch => true
  | .writeN _ _ | .writeGain _ | .swLatch | .wuAll _ _ | .wuN _ _ | .power _ _ | .reset _
  | .ldacCtrl _ | .refCtrl _ | .new | .setCmd _ | .setAddr _ | .setData _ | .setGain _
  | .setPdMode _ | .setPdSel _ | .setRstMode _ | .setLdacMode _ | .setRef _ | .finalize => false

/-- The encode operations (R130 to R138). -/
def isEncodeOp : Instr → Bool
  | .writeN _ _ | .writeGain _ | .swLatch | .wuAll _ _ | .wuN _ _ | .power _ _ | .reset _
  | .ldacCtrl _ | .refCtrl _ => true
  | .new | .setCmd _ | .setAddr _ | .setData _ | .setGain _ | .setPdMode _ | .setPdSel _
  | .setRstMode _ | .setLdacMode _ | .setRef _ | .finalize | .devInit | .devSetPower _ _
  | .devWrite _ _ | .devLatch => false

/-- The instructions that need a build in progress: the setters and FINALIZE (R102). -/
def needsBuild (i : Instr) : Bool := (setterField i).isSome || i == .finalize

/-- The setters of an encode operation's expansion, in the order its rule writes them (R130 to R138);
empty for the other instructions. -/
def expansion : Instr → List Instr
  | .writeN ch v => [.setCmd .writeN, .setAddr ch.addr, .setData v]
  | .writeGain g => [.setCmd .writeN, .setAddr .gain, .setGain g]
  | .swLatch => [.setCmd .swLatch, .setAddr .ab]
  | .wuAll ch v => [.setCmd .wuAll, .setAddr ch.addr, .setData v]
  | .wuN ch v => [.setCmd .wuN, .setAddr ch.addr, .setData v]
  | .power m sel => [.setCmd .power, .setPdMode m, .setPdSel sel]
  | .reset r => [.setCmd .reset, .setRstMode r]
  | .ldacCtrl l => [.setCmd .ldacCtrl, .setLdacMode l]
  | .refCtrl e => [.setCmd .refCtrl, .setRef e]
  | .new | .setCmd _ | .setAddr _ | .setData _ | .setGain _ | .setPdMode _ | .setPdSel _
  | .setRstMode _ | .setLdacMode _ | .setRef _ | .finalize | .devInit | .devSetPower _ _
  | .devWrite _ _ | .devLatch => []

/-- A setter's result, bit by bit: in a build, the field's bits are the low bits of the code, every other
bit of the buffer and every other field of the state is as it was. -/
def SetsField (i : Instr) (lo width : Nat) (code : State → BitVec width) : Prop :=
  ∀ (s : State) (pkt : PacketWord), s.phase = .building pkt →
    ∃ q : PacketWord, exec i s = .next { s with phase := .building q } ∧
      q.extractLsb' lo width = code s ∧
      ∀ k, k < lo ∨ lo + width ≤ k → q.getLsbD k = pkt.getLsbD k

/-- An encode operation's result: Idle, it returns the packet of these bytes, and the state is otherwise
as it was. -/
def Encodes (i : Instr) (bytes : State → Packet) : Prop :=
  ∀ s : State, s.phase = .idle →
    exec i s = .next { s with replies := s.replies ++ [.packet (bytes s)] }

/-- A device operation's packet: Idle, the operation is TXN of `p` and nothing else. -/
def DeviceOpFrames (i : Instr) (p : Packet) : Prop :=
  ∀ s : State, s.phase = .idle → exec i s = .next (runTxn p s)

/-- A state after a whole frame in which the two `SetCS` calls and `n` `Send` calls were made, as
`events` says, and the operation returned `res`: CS is where the release left it, and the encoder, its
parameters and the client's requests are as they were. -/
def afterFrame (s : State) (events : List WireEvent) (n : Nat) (res : DeviceResult) : State :=
  { s with
    cs := levelAfter .high (s.pinDraw 1)
    wire := s.wire ++ events
    replies := s.replies ++ [.device res]
    pinDraws := s.pinDraws.drop 2
    pinCalls := s.pinCalls + 2
    sendDraws := s.sendDraws.drop n
    sendCalls := s.sendCalls + n }

/-! ## The invariant of the encoder -/

/-- RSV is 0 in the buffer and in every packet handed out (R24). -/
def ReservedZero (s : State) : Prop :=
  (∀ pkt, s.phase = .building pkt → pkt.extractLsb' 22 2 = 0) ∧
    ∀ p, .packet p ∈ s.replies → p.b0.extractLsb' 6 2 = 0

/-- The buffer of a build in progress is a word of the builder set (R24, R74). -/
def phaseOk : Phase → Bool
  | .idle => true
  | .building pkt => isBuilderWord pkt

/-- A packet handed to the client is a word of the builder set (R24, R74). -/
def replyOk : Reply → Bool
  | .packet p => isBuilderWord (wordOfPacket p)
  | .device _ => true

/-- The buffer and every packet handed out are words of the builder set. -/
def BuilderInv (s : State) : Prop := phaseOk s.phase = true ∧ s.replies.all replyOk = true

/-! ## The chip-select discipline -/

/-- Where a wire trace stands: outside a frame, inside one after `sent` bytes, or inside one that has
failed and must be released (R163 to R167). -/
inductive FramePos where
  | released
  | inFrame (sent : Nat)
  | failed
deriving DecidableEq, Repr

/-- The next position, or `none` where the discipline forbids the event. A frame is opened by driving CS
low; at most three bytes follow, the first with bits 7:6 clear (R24); nothing but the release follows a
failure; the release drives CS high and closes the frame. -/
def frameStep : FramePos → WireEvent → Option FramePos
  | .released, .setCs .low .ok => some (.inFrame 0)
  | .released, .setCs .low (.err _ _) => some .failed
  | .released, .setCs .high _ => none
  | .released, .send _ _ => none
  | .inFrame sent, .send b r =>
    if sent < 3 ∧ (sent = 0 → b.extractLsb' 6 2 = 0) then
      match r with
      | .ok => some (.inFrame (sent + 1))
      | .err _ => some .failed
    else none
  | .inFrame sent, .setCs .high _ => if sent = 3 then some .released else none
  | .inFrame _, .setCs .low _ => none
  | .failed, .setCs .high _ => some .released
  | .failed, .setCs .low _ => none
  | .failed, .send _ _ => none

/-- A trace followed from a position. -/
def frameRun : FramePos → List WireEvent → Option FramePos
  | pos, [] => some pos
  | pos, e :: es => (frameStep pos e).bind fun next => frameRun next es

/-- The wire is a sequence of whole frames. -/
def WireFramed (s : State) : Prop := frameRun .released s.wire = some .released

/-- Where the last `SetCS` of a trace left the line; `none` where there was none. -/
def lastLevel : List WireEvent → Option Level
  | [] => none
  | .setCs l r :: es => (lastLevel es).orElse fun _ => some (levelAfter l r)
  | .send _ _ :: es => lastLevel es

/-- The CS level is where the last `SetCS` left it (R30: written only through `SetCS`). -/
def CsFollowsWire (s : State) : Prop := ∀ l, lastLevel s.wire = some l → s.cs = l

/-- A release: `SetCS(High)`. -/
def isRelease : WireEvent → Bool
  | .setCs .high _ => true
  | .setCs .low _ => false
  | .send _ _ => false

end Sys2Proof.Machine
end

