-- ==== Sys2Proof/Certificates/Slice0/Obligations.lean ====
section
/-! DEFINITION. The statements for the provers. Each docstring names the rule of spec/ it formalises;
where a clause is the spec's own decision (92_eei_decisions.md) or the model's choice, it says so. -/

open Sys2Proof Sys2Proof.Machine

/-! ## Encoding and decoding -/

/-- Every instruction's encoding, read as its row, gives the instruction back, whatever GAIN_CODE is
(opcode_table.json; R73, R78). The row-and-bits form is the model's (log entry 13). -/
def Obligations.DecodeRowInvertsEncode : Prop :=
  ∀ (t : GainAssignment) (i : Instr), decodeRow t (rowOf i) (encode t i) = .instr i

/-- The packet decoder answers `i` on exactly one word: `i` is an encode operation and the word is its
encoding (R73, R75). -/
def Obligations.DecodePacketInvertsEncode : Prop :=
  ∀ (t : GainAssignment) (w : PacketWord) (i : Instr),
    decodePacket t w = .instr i ↔ (isEncodeOp i = true ∧ encode t i = w)

/-- The packet decoder accepts exactly the words the encode operations can return (R74, R75). The codes that
`isEncodeWord` gives CMD for WU_ALL, WU_N and RESET are decision D4 (log entry 15). -/
def Obligations.DecoderAcceptsExactlyEncodeWords : Prop :=
  ∀ (t : GainAssignment) (w : PacketWord),
    (∃ i, decodePacket t w = .instr i) ↔ isEncodeWord w = true

/-- Every other word is rejected by the class of R75 it falls in. -/
def Obligations.DecoderNamesRejectedClass : Prop :=
  ∀ (t : GainAssignment) (w : PacketWord),
    (w.extractLsb' 22 2 ≠ 0 → decodePacket t w = .reject .reservedBits) ∧
    (w.extractLsb' 22 2 = 0 → w.extractLsb' 16 3 ∈ [(3 : BitVec 3), 4, 5, 6] →
      decodePacket t w = .reject .unusedAddress) ∧
    (isBuilderWord w = true → isEncodeWord w = false → decodePacket t w = .reject .builderOnly)

/-- No two packet rows read the same word (R73). -/
def Obligations.PacketRowsAreDisjoint : Prop :=
  ∀ (t : GainAssignment) (w : PacketWord), ∀ r1 ∈ packetRows, ∀ r2 ∈ packetRows, ∀ i j : Instr,
    decodeRow t r1 w = .instr i → decodeRow t r2 w = .instr j → r1 = r2

/-- Bytes that are not three are no packet (R60, R77). -/
def Obligations.OnlyThreeBytesDecode : Prop :=
  ∀ (t : GainAssignment) (bs : List Byte), bs.length ≠ 3 →
    decodeBytes t bs = .reject .notThreeBytes

/-- Packets written out from the encoding tables and the source's vectors (95_test_vectors.md S2 to S9,
E7, E10, K2) decode to the encode operations they stand for; E7, E10 and K2 rest on decision D4. -/
def Obligations.WrittenPacketsDecode : Prop :=
  ∀ t : GainAssignment,
    decodeBytes t [0x07, 0x12, 0x34] = .instr (.writeN .ab 0x1234) ∧
    decodeBytes t [0x0F, 0x00, 0x00] = .instr .swLatch ∧
    decodeBytes t [0x02, 0x00, 0x01] = .instr (.writeGain .a1b2) ∧
    decodeBytes t [0x20, 0x00, 0x23] = .instr (.power .pd100k .ab) ∧
    decodeBytes t [0x30, 0x00, 0x03] = .instr (.ldacCtrl .ldacNone) ∧
    decodeBytes t [0x38, 0x00, 0x01] = .instr (.refCtrl .enable) ∧
    decodeBytes t [0x11, 0xFF, 0xFF] = .instr (.wuAll .b 0xFFFF) ∧
    decodeBytes t [0x19, 0x7F, 0xFF] = .instr (.wuN .b 0x7FFF) ∧
    decodeBytes t [0x28, 0x00, 0x01] = .instr (.reset .all)

/-- The codes of every closed enumeration (R63, R64, R67 to R71). Codes 2, 3 and 5 of CMD are decision D4,
codes 1 and 3 of PD_MODE decision D5 (log entries 15 and 16). -/
def Obligations.OperandCodesAreTheTables : Prop :=
  (Op.writeN.code = 0 ∧ Op.swLatch.code = 1 ∧ Op.wuAll.code = 2 ∧ Op.wuN.code = 3 ∧
    Op.power.code = 4 ∧ Op.reset.code = 5 ∧ Op.ldacCtrl.code = 6 ∧ Op.refCtrl.code = 7) ∧
  (Addr.a.code = 0 ∧ Addr.b.code = 1 ∧ Addr.gain.code = 2 ∧ Addr.ab.code = 7) ∧
  (Channel.a.code = 0 ∧ Channel.b.code = 1 ∧ Channel.ab.code = 7) ∧
  (PowerMode.up.code = 0 ∧ PowerMode.pd1k.code = 1 ∧ PowerMode.pd100k.code = 2 ∧
    PowerMode.hiz.code = 3) ∧
  (PowerSel.a.code = 1 ∧ PowerSel.b.code = 2 ∧ PowerSel.ab.code = 3) ∧
  (ResetMode.input.code = 0 ∧ ResetMode.all.code = 1) ∧
  (LdacMode.ldacAll.code = 0 ∧ LdacMode.ldacB.code = 1 ∧ LdacMode.ldacA.code = 2 ∧
    LdacMode.ldacNone.code = 3) ∧
  (Ref.disable.code = 0 ∧ Ref.enable.code = 1)

/-- GAIN_CODE ranges over exactly the injective assignments with GAIN_CODE(A1B2) = 1 (R72, the OPEN
parameter of decision D6; log entry 1): the model shuts none out and adds none. -/
def Obligations.GainCodeRangesOverAllInjections : Prop :=
  ∀ f : GainMode → BitVec 2,
    (∃ t : GainAssignment, gainCode t = f) ↔ (Function.Injective f ∧ f .a1b2 = 1)

/-! ## The builder -/

/-- FieldWrite bit by bit (R100): inside the field the bits of the value, outside it the bits of the
buffer. The places of the B2 subfields are the table's (decision D7, log entry 17). -/
def Obligations.FieldWriteIsExact : Prop :=
  ∀ (f : Field) (n : Nat) (v : BitVec n) (pkt : PacketWord) (k : Nat), k < 24 →
    (fieldWrite f v pkt).getLsbD k =
      if fieldShift f ≤ k ∧ k < fieldShift f + fieldWidth f then v.getLsbD (k - fieldShift f)
      else pkt.getLsbD k

/-- NEW in Idle starts a build of the zero buffer and changes nothing else (R103; the zero is decision
D9, log entry 24). -/
def Obligations.NewStartsZeroBuild : Prop :=
  ∀ s : State, s.phase = .idle → exec .new s = .next { s with phase := .building 0 }

/-- SET_CMD (R104), and the rule's example. -/
def Obligations.SetCmdWritesCmd : Prop :=
  (∀ op : Op, SetsField (.setCmd op) 19 3 fun _ => op.code) ∧
  ∀ s : State, s.phase = .idle →
    runCalls [.new, .setAddr .ab, .setCmd .swLatch] s = .next { s with phase := .building 0x0F0000 }

/-- SET_ADDR (R105), and the rule's example. -/
def Obligations.SetAddrWritesAddr : Prop :=
  (∀ adr : Addr, SetsField (.setAddr adr) 16 3 fun _ => adr.code) ∧
  ∀ s : State, s.phase = .idle →
    runCalls [.new, .setAddr .ab, .setAddr .a] s = .next { s with phase := .building 0x000000 }

/-- SET_DATA (R106): the whole payload; its high byte is B1 and its low byte B2; and the rule's example. -/
def Obligations.SetDataWritesPayload : Prop :=
  (∀ v : Half, SetsField (.setData v) 0 16 (fun _ => v) ∧
    ∀ (s t : State) (pkt q : PacketWord), s.phase = .building pkt → exec (.setData v) s = .next t →
      t.phase = .building q →
        (packetOfWord q).b1 = v.extractLsb' 8 8 ∧ (packetOfWord q).b2 = v.extractLsb' 0 8) ∧
  ∀ s : State, s.phase = .idle →
    runCalls [.new, .setData 0x1234] s = .next { s with phase := .building 0x001234 }

/-- SET_GAIN (R107): GAIN_CODE's value, an OPEN parameter except on A1B2, where it is 1. The mask is
decision D7 (log entry 17). -/
def Obligations.SetGainWritesGainCode : Prop :=
  ∀ g : GainMode, SetsField (.setGain g) 0 2 (fun s => gainCode s.params.gainCodes g) ∧
    ∀ t : GainAssignment, gainCode t .a1b2 = 1

/-- SET_PD_MODE (R108); the mask is decision D7 (log entry 17). -/
def Obligations.SetPdModeWritesPdMode : Prop :=
  ∀ m : PowerMode, SetsField (.setPdMode m) 4 2 fun _ => m.code

/-- SET_PD_SEL (R109); the mask is decision D7 (log entry 17). -/
def Obligations.SetPdSelWritesPdSel : Prop :=
  ∀ sel : PowerSel, SetsField (.setPdSel sel) 0 2 fun _ => sel.code

/-- SET_RST_MODE (R110); the mask is decision D7 (log entry 17). -/
def Obligations.SetRstModeWritesOneBit : Prop :=
  ∀ r : ResetMode, SetsField (.setRstMode r) 0 1 fun _ => r.code

/-- SET_LDAC_MODE (R111); the mask is decision D7 (log entry 17). -/
def Obligations.SetLdacModeWritesLdacMode : Prop :=
  ∀ l : LdacMode, SetsField (.setLdacMode l) 0 2 fun _ => l.code

/-- SET_REF (R112); the mask is decision D7 (log entry 17). -/
def Obligations.SetRefWritesOneBit : Prop :=
  ∀ e : Ref, SetsField (.setRef e) 0 1 fun _ => e.code

/-- FINALIZE (R113): the three bytes go to the client, the build ends, nothing else changes; after it
every setter and a second FINALIZE are refused, and in Idle FINALIZE is refused (the refusals are
decision D8, log entry 20). -/
def Obligations.FinalizeReturnsThreeBytes : Prop :=
  (∀ (s : State) (pkt : PacketWord), s.phase = .building pkt →
    ∃ t, exec .finalize s = .next t ∧
      t = { s with
            phase := .idle
            replies := s.replies ++
              [.packet ⟨pkt.extractLsb' 16 8, pkt.extractLsb' 8 8, pkt.extractLsb' 0 8⟩] } ∧
      ∀ i : Instr, needsBuild i = true → exec i t = .refused .noBuild) ∧
  (∀ s : State, s.phase = .idle → exec .finalize s = .refused .noBuild)

/-- When an instruction is refused, exactly, and that it completes otherwise (R102, decision D8; that an
encode or device operation in Building is refused follows its expansion, log entry 10). -/
def Obligations.InstructionsRefusedExactlyOutOfPhase : Prop :=
  ∀ (i : Instr) (s : State),
    (exec i s = .refused .noBuild ↔ (needsBuild i = true ∧ s.phase = .idle)) ∧
    (exec i s = .refused .buildInProgress ↔ (needsBuild i = false ∧ s.phase ≠ .idle)) ∧
    ((needsBuild i = true ↔ s.phase ≠ .idle) → ∃ t, exec i s = .next t)

/-- The last write wins, on the same field and on a field that contains it (R114, R116; the masks of the
B2 subfields are decision D7). -/
def Obligations.LaterCoveringSetterWins : Prop :=
  ∀ (i j : Instr) (f g : Field) (s : State), setterField i = some f → setterField j = some g →
    fieldMask f &&& ~~~(fieldMask g) = 0 → runCalls [i, j] s = runCalls [j] s

/-- Setters of disjoint fields commute (R115), and the disjoint pairs are those R115 lists. -/
def Obligations.DisjointSettersCommute : Prop :=
  (∀ (i j : Instr) (f g : Field) (s : State), setterField i = some f → setterField j = some g →
    fieldMask f &&& fieldMask g = 0 → runCalls [i, j] s = runCalls [j, i] s) ∧
  (∀ f g : Field, fieldMask f &&& fieldMask g = 0 ↔
    (f ≠ g ∧ ((f ∈ [Field.cmd, .addr] ∨ g ∈ [Field.cmd, .addr]) ∨
      (f = .pdMode ∧ g ∈ [Field.pdSel, .gain, .ldacMode, .rstMode, .ref]) ∨
      (g = .pdMode ∧ f ∈ [Field.pdSel, .gain, .ldacMode, .rstMode, .ref]))))

/-- A build returns the same packet whatever was built before it: it depends on its setters and the
parameters alone, and leaves everything but the replies as it was (R22, R221). -/
def Obligations.BuildsForgetTheirPast : Prop :=
  ∀ (l : List Instr) (s1 s2 : State), (∀ i ∈ l, (setterField i).isSome = true) →
    s1.phase = .idle → s2.phase = .idle → s1.params = s2.params →
    ∃ p : Packet,
      runCalls (.new :: l ++ [.finalize]) s1 = .next { s1 with replies := s1.replies ++ [.packet p] } ∧
      runCalls (.new :: l ++ [.finalize]) s2 = .next { s2 with replies := s2.replies ++ [.packet p] }

/-- The builder returns every word of the builder set (R74): SET_CMD, SET_ADDR and SET_DATA reach it. -/
def Obligations.BuilderReachesEveryBuilderWord : Prop :=
  ∀ w : PacketWord, isBuilderWord w = true →
    ∃ (op : Op) (adr : Addr) (v : Half), ∀ s : State, s.phase = .idle →
      runCalls [.new, .setCmd op, .setAddr adr, .setData v, .finalize] s =
        .next { s with replies := s.replies ++ [.packet (packetOfWord w)] }

/-! ## The encode operations -/

/-- ENC_WRITE_N (R130; its domain Channel is decision D10, log entry 25). -/
def Obligations.EncWriteNReturnsItsBytes : Prop :=
  ∀ (ch : Channel) (v : Half),
    Encodes (.writeN ch v) fun _ => ⟨ch.code.setWidth 8, v.extractLsb' 8 8, v.extractLsb' 0 8⟩

/-- ENC_WU_ALL and ENC_WU_N (R133, R134; the CMD codes are decision D4, log entry 15). -/
def Obligations.EncWriteUpdateReturnsItsBytes : Prop :=
  ∀ (ch : Channel) (v : Half),
    (Encodes (.wuAll ch v) fun _ =>
      ⟨0x10 ||| ch.code.setWidth 8, v.extractLsb' 8 8, v.extractLsb' 0 8⟩) ∧
    (Encodes (.wuN ch v) fun _ =>
      ⟨0x18 ||| ch.code.setWidth 8, v.extractLsb' 8 8, v.extractLsb' 0 8⟩)

/-- ENC_WRITE_GAIN (R131): GAIN_CODE's value, whatever it is, and `[0x02, 0x00, 0x01]` on A1B2. -/
def Obligations.EncWriteGainReturnsGainCode : Prop :=
  (∀ g : GainMode, Encodes (.writeGain g) fun s =>
    ⟨0x02, 0x00, (gainCode s.params.gainCodes g).setWidth 8⟩) ∧
  Encodes (.writeGain .a1b2) fun _ => ⟨0x02, 0x00, 0x01⟩

/-- ENC_SW_LATCH (R132; that it has no other form is decision D10, log entry 25). -/
def Obligations.EncSwLatchReturnsItsPacket : Prop :=
  Encodes .swLatch fun _ => ⟨0x0F, 0x00, 0x00⟩

/-- ENC_POWER (R135; the codes of PD1K and HIZ are decision D5, log entry 16). -/
def Obligations.EncPowerReturnsItsBytes : Prop :=
  ∀ (m : PowerMode) (sel : PowerSel),
    Encodes (.power m sel) fun _ =>
      ⟨0x20, 0x00, (m.code.setWidth 8 <<< 4) ||| sel.code.setWidth 8⟩

/-- ENC_RESET (R136; the CMD code 5 is decision D4, log entry 15). -/
def Obligations.EncResetReturnsItsBytes : Prop :=
  ∀ r : ResetMode, Encodes (.reset r) fun _ => ⟨0x28, 0x00, r.code.setWidth 8⟩

/-- ENC_LDAC_CTRL (R137): the bytes, the expansion they come from, and the corner cases. -/
def Obligations.EncLdacCtrlReturnsItsBytes : Prop :=
  (∀ l : LdacMode, Encodes (.ldacCtrl l) fun _ => ⟨0x30, 0x00, l.code.setWidth 8⟩) ∧
  (∀ (l : LdacMode) (s : State),
    runCalls [.new, .setCmd .ldacCtrl, .setLdacMode l, .finalize] s = exec (.ldacCtrl l) s) ∧
  (Encodes (.ldacCtrl .ldacAll) fun _ => ⟨0x30, 0x00, 0x00⟩) ∧
  (Encodes (.ldacCtrl .ldacNone) fun _ => ⟨0x30, 0x00, 0x03⟩)

/-- ENC_REF_CTRL (R138): the bytes, the expansion they come from, and the example. -/
def Obligations.EncRefCtrlReturnsItsBytes : Prop :=
  (∀ e : Ref, Encodes (.refCtrl e) fun _ => ⟨0x38, 0x00, e.code.setWidth 8⟩) ∧
  (∀ (e : Ref) (s : State),
    runCalls [.new, .setCmd .refCtrl, .setRef e, .finalize] s = exec (.refCtrl e) s) ∧
  (Encodes (.refCtrl .enable) fun _ => ⟨0x38, 0x00, 0x01⟩)

/-- Every encode operation is its builder expansion, with its setters in any order, in every state (R130 to
R139(c); the order written is decision D11, log entry 24). In Building both are refused: the expansion by its
NEW (decision D8, log entry 20), the operation by the model's reading of its expansion (log entry 10). -/
def Obligations.EncodeOpsAreTheirExpansions : Prop :=
  ∀ (i : Instr) (l : List Instr) (s : State), isEncodeOp i = true → l.Perm (expansion i) →
    runCalls (.new :: l ++ [.finalize]) s = exec i s

/-- Every encode operation returns the word its row of the table gives (R73). -/
def Obligations.EncodeOpsReturnTheTableWord : Prop :=
  ∀ i : Instr, isEncodeOp i = true →
    Encodes i fun s => packetOfWord (encode s.params.gainCodes i)

/-- The words the encode operations can return are exactly those of the table of R73 (R74). The codes that
`isEncodeWord` gives CMD for WU_ALL, WU_N and RESET are decision D4 (log entry 15). -/
def Obligations.EncodeOpsReturnExactlyEncodeWords : Prop :=
  ∀ (t : GainAssignment) (w : PacketWord),
    isEncodeWord w = true ↔
      ∃ i : Instr, isEncodeOp i = true ∧ ∀ s : State, s.phase = .idle → s.params.gainCodes = t →
        exec i s = .next { s with replies := s.replies ++ [.packet (packetOfWord w)] }

/-- An encoder operation, builder or encode, does no I/O: the line, the wire, the transport's draws, the
parameters and the client's requests are as they were (R49, R118). -/
def Obligations.EncoderOpsDoNoIo : Prop :=
  ∀ (i : Instr) (s t : State), isDeviceOp i = false → exec i s = .next t →
    t = { s with phase := t.phase, replies := t.replies }

/-! ## The device operations and TXN -/

/-- initialize frames the reset-all packet (R168; the CMD code 5 is decision D4, log entry 15). -/
def Obligations.InitializeFramesResetAll : Prop :=
  DeviceOpFrames .devInit ⟨0x28, 0x00, 0x01⟩

/-- set_power frames the POWER packet (R169; two mode codes are decision D5, log entry 16). -/
def Obligations.SetPowerFramesPowerPacket : Prop :=
  ∀ (m : PowerMode) (sel : PowerSel),
    DeviceOpFrames (.devSetPower m sel) ⟨0x20, 0x00, (m.code.setWidth 8 <<< 4) ||| sel.code.setWidth 8⟩

/-- write frames the WRITE_N packet, the kind that does not update the output (R170). -/
def Obligations.WriteFramesWriteNPacket : Prop :=
  ∀ (v : Half) (ch : Channel),
    DeviceOpFrames (.devWrite v ch) ⟨ch.code.setWidth 8, v.extractLsb' 8 8, v.extractLsb' 0 8⟩ ∧
    ∀ s : State, s.phase = .idle →
      ∃ p : Packet, exec (.writeN ch v) s = .next (s.addReply (.packet p)) ∧
        exec (.devWrite v ch) s = .next (runTxn p s)

/-- latch frames the packet of ENC_SW_LATCH, with or without a write before it, and on success the wire
trace and the result are the rule's (R171). -/
def Obligations.LatchFramesSwLatchPacket : Prop :=
  DeviceOpFrames .devLatch ⟨0x0F, 0x00, 0x00⟩ ∧
  (∀ s : State, s.phase = .idle →
    ∃ p : Packet, exec .swLatch s = .next (s.addReply (.packet p)) ∧
      exec .devLatch s = .next (runTxn p s)) ∧
  (∀ s : State, s.phase = .idle → s.pinDraw 0 = .ok → s.sendDraw 0 = .ok → s.sendDraw 1 = .ok →
    s.sendDraw 2 = .ok → s.pinDraw 1 = .ok →
      ∃ t, exec .devLatch s = .next t ∧
        t.wire = s.wire ++ [.setCs .low .ok, .send 0x0F .ok, .send 0x00 .ok, .send 0x00 .ok,
          .setCs .high .ok] ∧
        t.replies = s.replies ++ [.device .ok])

/-- TXN on every path (R163, R165 to R167, R192, R195): the trace, the level of CS, the result and the
whole next state, for a failed assertion, for a failure at each byte, and with all bytes sent. That no
byte follows a failed assertion is decision D13, the precedence of the first error and the parameter
SURFACE_RELEASE_ERROR decision D14; the level after a failed call is log entry 7's. -/
def Obligations.TxnOutcomeOnEveryPath : Prop :=
  ∀ (p : Packet) (s : State),
    (∀ e l, s.pinDraw 0 = .err e l →
      runTxn p s = afterFrame s [.setCs .low (.err e l), .setCs .high (s.pinDraw 1)] 0
        (.err (.pin e))) ∧
    (∀ t, s.pinDraw 0 = .ok → s.sendDraw 0 = .err t →
      runTxn p s = afterFrame s
        [.setCs .low .ok, .send p.b0 (.err t), .setCs .high (s.pinDraw 1)] 1 (.err (.tx t))) ∧
    (∀ t, s.pinDraw 0 = .ok → s.sendDraw 0 = .ok → s.sendDraw 1 = .err t →
      runTxn p s = afterFrame s
        [.setCs .low .ok, .send p.b0 .ok, .send p.b1 (.err t), .setCs .high (s.pinDraw 1)] 2
        (.err (.tx t))) ∧
    (∀ t, s.pinDraw 0 = .ok → s.sendDraw 0 = .ok → s.sendDraw 1 = .ok → s.sendDraw 2 = .err t →
      runTxn p s = afterFrame s
        [.setCs .low .ok, .send p.b0 .ok, .send p.b1 .ok, .send p.b2 (.err t),
          .setCs .high (s.pinDraw 1)] 3 (.err (.tx t))) ∧
    (s.pinDraw 0 = .ok → s.sendDraw 0 = .ok → s.sendDraw 1 = .ok → s.sendDraw 2 = .ok →
      runTxn p s = afterFrame s
        [.setCs .low .ok, .send p.b0 .ok, .send p.b1 .ok, .send p.b2 .ok,
          .setCs .high (s.pinDraw 1)] 3
        (match s.pinDraw 1 with
          | .ok => .ok
          | .err e _ => if s.params.surfaceReleaseError = true then .err (.pin e) else .ok))

/-- TXN drives CS high exactly once, on every path, as its last call (R164). -/
def Obligations.TxnReleasesExactlyOnce : Prop :=
  ∀ (p : Packet) (s : State), ∃ events : List WireEvent,
    (runTxn p s).wire = s.wire ++ events ++ [.setCs .high (s.pinDraw 1)] ∧
      events.all (fun e => !isRelease e) = true

/-- A failed Send ends the sending (R165): the bytes before it have been sent, those after it are not,
the release still runs, and the operation returns that error. -/
def Obligations.FailedSendEndsTheSending : Prop :=
  ∀ (p : Packet) (s : State) (k : Nat) (t : TxError), k < 3 → s.pinDraw 0 = .ok →
    (∀ j, j < k → s.sendDraw j = .ok) → s.sendDraw k = .err t →
    (runTxn p s).wire = s.wire ++ [.setCs .low .ok]
      ++ ((packetBytes p).take k).map (fun b => .send b .ok)
      ++ ((packetBytes p).drop k).head?.toList.map (fun b => .send b (.err t))
      ++ [.setCs .high (s.pinDraw 1)] ∧
    (runTxn p s).replies = s.replies ++ [.device (.err (.tx t))]

/-- A device operation leaves the encoder Idle and returns exactly one result to the client, Ok or an
error; the parameters and the other requests are as they were, so the next operation is accepted with no
recovery step (R161, R172, R197). -/
def Obligations.DeviceOpsReturnOneResult : Prop :=
  ∀ (i : Instr) (s t : State), isDeviceOp i = true → exec i s = .next t →
    t.phase = .idle ∧ t.params = s.params ∧ t.requests = s.requests ∧
      (∃ r : DeviceResult, t.replies = s.replies ++ [.device r]) ∧
      ∀ j : Instr, isDeviceOp j = true → ∃ u, exec j t = .next u

/-! ## Steps and requests -/

/-- A step runs the instruction its request names, on the state with that request taken: a typed call,
a table row's bits, or the bytes of a packet; rejected bits are refused by name. A table word presented
by `withFetchWord` is the next request (log entries 8 and 13). -/
def Obligations.StepRunsTheDecodedRequest : Prop :=
  ∀ (s : State) (rest : List Request) (i : Instr) (why : Reject),
    (s.requests = .call i :: rest → step s = exec i { s with requests := rest }) ∧
    (∀ r w, s.requests = .row r w :: rest →
      (decodeRow s.params.gainCodes r w = .instr i → step s = exec i { s with requests := rest }) ∧
      (decodeRow s.params.gainCodes r w = .reject why → step s = .refused (.notProduced why))) ∧
    (∀ bs, s.requests = .bytes bs :: rest →
      (decodeBytes s.params.gainCodes bs = .instr i → step s = exec i { s with requests := rest }) ∧
      (decodeBytes s.params.gainCodes bs = .reject why → step s = .refused (.notProduced why))) ∧
    (∀ nbits w, decodeBytes s.params.gainCodes (tableBytes nbits w) = .instr i →
      step (s.withFetchWord nbits w) = exec i s)

/-- A step with no request changes nothing; TXN frames any packet FINALIZE can return and refuses one
it cannot; an overlapping request is refused (R51, R174, R226; log entries 8, 11 and 12). -/
def Obligations.StepOnTheOtherRequests : Prop :=
  ∀ (s : State) (rest : List Request),
    (s.requests = [] → step s = .next s) ∧
    (∀ p, s.requests = .txn p :: rest → isBuilderWord (wordOfPacket p) = true →
      step s = .next (runTxn p { s with requests := rest })) ∧
    (∀ p, s.requests = .txn p :: rest → isBuilderWord (wordOfPacket p) = false →
      ∃ why, step s = .refused (.notProduced why)) ∧
    (∀ i, s.requests = .overlapping i :: rest → step s = .refused .overlappingRequest)

/-- The bytes of an encode operation's packet, presented as a request, run that operation. That bytes are a
request, and run the operation that produces them, is the model's choice (DESIGN CHOICE, log entry 13): R78
gives requests no binary encoding. The spec gives the packet's bytes and the decoder alone (R73, R75). -/
def Obligations.PacketBytesRunTheirEncodeOp : Prop :=
  ∀ (s : State) (rest : List Request) (i : Instr), isEncodeOp i = true →
    s.requests = .bytes (packetBytes (packetOfWord (encode s.params.gainCodes i))) :: rest →
    step s = exec i { s with requests := rest }

/-! ## Whole-machine rules -/

/-- RSV is 0 in every buffer and every finalized packet, and no operation writes it (R24). -/
def Obligations.ReservedBitsStayZero : Prop :=
  (∀ p : Params, ReservedZero (State.resetWith p)) ∧
  (∀ (i : Instr) (s t : State), ReservedZero s → exec i s = .next t → ReservedZero t) ∧
  (∀ s t : State, ReservedZero s → step s = .next t → ReservedZero t)

/-- Every step keeps the buffer and every packet handed out in the builder set (R74). -/
def Obligations.StepKeepsBuilderWords : Prop :=
  ∀ s t : State, BuilderInv s → step s = .next t → BuilderInv t

/-- Every step leaves the wire a sequence of whole frames: CS low, at most three bytes, CS high once,
nothing after a failure but the release, and never a first byte with bits 7:6 set (R24, R163 to R167;
R167 is decision D13). -/
def Obligations.StepKeepsWireFramed : Prop :=
  ∀ s t : State, WireFramed s → step s = .next t → WireFramed t

/-- Every step keeps the CS level where the last SetCS left it: it is written only through SetCS (R30). -/
def Obligations.StepKeepsCsFollowingWire : Prop :=
  ∀ s t : State, CsFollowsWire s → step s = .next t → CsFollowsWire t

/-- The state after reset meets the three invariants, whatever the parameters. -/
def Obligations.ResetMeetsTheInvariants : Prop :=
  ∀ p : Params, BuilderInv (State.resetWith p) ∧ WireFramed (State.resetWith p) ∧
    CsFollowsWire (State.resetWith p)

/-- A step changes no parameter (R8), takes back no packet or result handed out (a finalized packet is
immutable, R29) and no effect on the wire (R196), and takes one request. That the requests are a list of
which a step leaves the tail (log entry 8), and that what is handed out and sent stands in the lists
`replies` and `wire` (log entry 21), is the model's own form (DESIGN CHOICE). -/
def Obligations.StepsOnlyAppend : Prop :=
  ∀ s t : State, step s = .next t →
    t.params = s.params ∧ s.replies <+: t.replies ∧ s.wire <+: t.wire ∧ t.requests = s.requests.tail

/-- At reset the encoder is Idle with no buffer, and the first request may be NEW or any device
operation (R220; the phase is decision D8, log entry 20). -/
def Obligations.ResetIsIdleAndAcceptsRequests : Prop :=
  State.reset.phase = .idle ∧
  ∀ p : Params, (State.resetWith p).phase = .idle ∧
    ∀ i : Instr, (i = .new ∨ isDeviceOp i = true) → ∃ t, exec i (State.resetWith p) = .next t

/-- CS at reset is CS_INITIAL_LEVEL (R31, R33; an OPEN parameter, log entry 4), and no instruction's
completion depends on the level: every device operation drives it. -/
def Obligations.CsAtResetIsTheParameter : Prop :=
  ∀ p : Params,
    (p.csInitialLevel = .low → (State.resetWith p).cs = .low) ∧
    (p.csInitialLevel = .high → (State.resetWith p).cs = .high) ∧
    (∀ (pkt : Packet) (s : State) (l : Level), runTxn pkt { s with cs := l } = runTxn pkt s)
end

