-- ==== Sys2Proof/Laws/State.lean ====
section
/-! SUPPORT. One lemma per field per named update of the state, true by rfl. -/

namespace Sys2Proof.Machine

@[simp] theorem withPhase_params (s : State) (p : Phase) : (s.withPhase p).params = s.params := rfl
@[simp] theorem withPhase_phase (s : State) (p : Phase) : (s.withPhase p).phase = p := rfl
@[simp] theorem withPhase_cs (s : State) (p : Phase) : (s.withPhase p).cs = s.cs := rfl
@[simp] theorem withPhase_requests (s : State) (p : Phase) : (s.withPhase p).requests = s.requests := rfl
@[simp] theorem withPhase_replies (s : State) (p : Phase) : (s.withPhase p).replies = s.replies := rfl
@[simp] theorem withPhase_wire (s : State) (p : Phase) : (s.withPhase p).wire = s.wire := rfl
@[simp] theorem withPhase_sendDraws (s : State) (p : Phase) : (s.withPhase p).sendDraws = s.sendDraws := rfl
@[simp] theorem withPhase_pinDraws (s : State) (p : Phase) : (s.withPhase p).pinDraws = s.pinDraws := rfl
@[simp] theorem withPhase_sendCalls (s : State) (p : Phase) : (s.withPhase p).sendCalls = s.sendCalls := rfl
@[simp] theorem withPhase_pinCalls (s : State) (p : Phase) : (s.withPhase p).pinCalls = s.pinCalls := rfl

@[simp] theorem addReply_params (s : State) (r : Reply) : (s.addReply r).params = s.params := rfl
@[simp] theorem addReply_phase (s : State) (r : Reply) : (s.addReply r).phase = s.phase := rfl
@[simp] theorem addReply_cs (s : State) (r : Reply) : (s.addReply r).cs = s.cs := rfl
@[simp] theorem addReply_requests (s : State) (r : Reply) : (s.addReply r).requests = s.requests := rfl
@[simp] theorem addReply_replies (s : State) (r : Reply) : (s.addReply r).replies = s.replies ++ [r] := rfl
@[simp] theorem addReply_wire (s : State) (r : Reply) : (s.addReply r).wire = s.wire := rfl
@[simp] theorem addReply_sendDraws (s : State) (r : Reply) : (s.addReply r).sendDraws = s.sendDraws := rfl
@[simp] theorem addReply_pinDraws (s : State) (r : Reply) : (s.addReply r).pinDraws = s.pinDraws := rfl
@[simp] theorem addReply_sendCalls (s : State) (r : Reply) : (s.addReply r).sendCalls = s.sendCalls := rfl
@[simp] theorem addReply_pinCalls (s : State) (r : Reply) : (s.addReply r).pinCalls = s.pinCalls := rfl

@[simp] theorem withRequests_params (s : State) (rs : List Request) : (s.withRequests rs).params = s.params := rfl
@[simp] theorem withRequests_phase (s : State) (rs : List Request) : (s.withRequests rs).phase = s.phase := rfl
@[simp] theorem withRequests_cs (s : State) (rs : List Request) : (s.withRequests rs).cs = s.cs := rfl
@[simp] theorem withRequests_requests (s : State) (rs : List Request) : (s.withRequests rs).requests = rs := rfl
@[simp] theorem withRequests_replies (s : State) (rs : List Request) : (s.withRequests rs).replies = s.replies := rfl
@[simp] theorem withRequests_wire (s : State) (rs : List Request) : (s.withRequests rs).wire = s.wire := rfl
@[simp] theorem withRequests_sendDraws (s : State) (rs : List Request) : (s.withRequests rs).sendDraws = s.sendDraws := rfl
@[simp] theorem withRequests_pinDraws (s : State) (rs : List Request) : (s.withRequests rs).pinDraws = s.pinDraws := rfl
@[simp] theorem withRequests_sendCalls (s : State) (rs : List Request) : (s.withRequests rs).sendCalls = s.sendCalls := rfl
@[simp] theorem withRequests_pinCalls (s : State) (rs : List Request) : (s.withRequests rs).pinCalls = s.pinCalls := rfl

@[simp] theorem afterSetCs_params (s : State) (l : Level) : (s.afterSetCs l).params = s.params := rfl
@[simp] theorem afterSetCs_phase (s : State) (l : Level) : (s.afterSetCs l).phase = s.phase := rfl
@[simp] theorem afterSetCs_cs (s : State) (l : Level) : (s.afterSetCs l).cs = levelAfter l (s.pinDraw 0) := rfl
@[simp] theorem afterSetCs_requests (s : State) (l : Level) : (s.afterSetCs l).requests = s.requests := rfl
@[simp] theorem afterSetCs_replies (s : State) (l : Level) : (s.afterSetCs l).replies = s.replies := rfl
@[simp] theorem afterSetCs_wire (s : State) (l : Level) : (s.afterSetCs l).wire = s.wire ++ [.setCs l (s.pinDraw 0)] := rfl
@[simp] theorem afterSetCs_sendDraws (s : State) (l : Level) : (s.afterSetCs l).sendDraws = s.sendDraws := rfl
@[simp] theorem afterSetCs_pinDraws (s : State) (l : Level) : (s.afterSetCs l).pinDraws = s.pinDraws.drop 1 := rfl
@[simp] theorem afterSetCs_sendCalls (s : State) (l : Level) : (s.afterSetCs l).sendCalls = s.sendCalls := rfl
@[simp] theorem afterSetCs_pinCalls (s : State) (l : Level) : (s.afterSetCs l).pinCalls = s.pinCalls + 1 := rfl

@[simp] theorem afterSend_params (s : State) (b : Byte) : (s.afterSend b).params = s.params := rfl
@[simp] theorem afterSend_phase (s : State) (b : Byte) : (s.afterSend b).phase = s.phase := rfl
@[simp] theorem afterSend_cs (s : State) (b : Byte) : (s.afterSend b).cs = s.cs := rfl
@[simp] theorem afterSend_requests (s : State) (b : Byte) : (s.afterSend b).requests = s.requests := rfl
@[simp] theorem afterSend_replies (s : State) (b : Byte) : (s.afterSend b).replies = s.replies := rfl
@[simp] theorem afterSend_wire (s : State) (b : Byte) : (s.afterSend b).wire = s.wire ++ [.send b (s.sendDraw 0)] := rfl
@[simp] theorem afterSend_sendDraws (s : State) (b : Byte) : (s.afterSend b).sendDraws = s.sendDraws.drop 1 := rfl
@[simp] theorem afterSend_pinDraws (s : State) (b : Byte) : (s.afterSend b).pinDraws = s.pinDraws := rfl
@[simp] theorem afterSend_sendCalls (s : State) (b : Byte) : (s.afterSend b).sendCalls = s.sendCalls + 1 := rfl
@[simp] theorem afterSend_pinCalls (s : State) (b : Byte) : (s.afterSend b).pinCalls = s.pinCalls := rfl

/-! The draws a call does not consume, and the next one after it is consumed. -/

@[simp] theorem addReply_pinDraw (s : State) (r : Reply) (k : Nat) :
    (s.addReply r).pinDraw k = s.pinDraw k := rfl

@[simp] theorem withRequests_pinDraw (s : State) (rs : List Request) (k : Nat) :
    (s.withRequests rs).pinDraw k = s.pinDraw k := rfl

@[simp] theorem withRequests_sendDraw (s : State) (rs : List Request) (k : Nat) :
    (s.withRequests rs).sendDraw k = s.sendDraw k := rfl

@[simp] theorem afterSetCs_sendDraw (s : State) (l : Level) (k : Nat) :
    (s.afterSetCs l).sendDraw k = s.sendDraw k := rfl

@[simp] theorem afterSend_pinDraw (s : State) (b : Byte) (k : Nat) :
    (s.afterSend b).pinDraw k = s.pinDraw k := rfl

@[simp] theorem afterSetCs_pinDraw (s : State) (l : Level) (k : Nat) :
    (s.afterSetCs l).pinDraw k = s.pinDraw (k + 1) := by
  simp only [State.pinDraw, afterSetCs_pinDraws, afterSetCs_pinCalls, List.drop_drop, Nat.add_comm 1 k,
    Nat.add_assoc]

@[simp] theorem afterSend_sendDraw (s : State) (b : Byte) (k : Nat) :
    (s.afterSend b).sendDraw k = s.sendDraw (k + 1) := by
  simp only [State.sendDraw, afterSend_sendDraws, afterSend_sendCalls, List.drop_drop, Nat.add_comm 1 k,
    Nat.add_assoc]

end Sys2Proof.Machine
end

