-- ==== Sys2Proof/Laws/Ops.lean ====
section
/-! SUPPORT. What each shared operation can do, said once: the provers cite these and unfold nothing. -/

namespace Sys2Proof.Machine

/-! ## A build -/

theorem startBuild_idle {s : State} (h : s.phase = .idle) :
    startBuild s = .next (s.withPhase (.building newBuffer)) := by simp only [startBuild, h]

theorem startBuild_building {s : State} {pkt : PacketWord} (h : s.phase = .building pkt) :
    startBuild s = .refused .buildInProgress := by simp only [startBuild, h]

theorem setField_idle {s : State} (f : Field) {n : Nat} (v : BitVec n) (h : s.phase = .idle) :
    setField f v s = .refused .noBuild := by simp only [setField, h]

theorem setField_building {s : State} {pkt : PacketWord} (f : Field) {n : Nat} (v : BitVec n)
    (h : s.phase = .building pkt) :
    setField f v s = .next (s.withPhase (.building (fieldWrite f v pkt))) := by simp only [setField, h]

theorem finishBuild_idle {s : State} (h : s.phase = .idle) :
    finishBuild s = .refused .noBuild := by simp only [finishBuild, h]

theorem finishBuild_building {s : State} {pkt : PacketWord} (h : s.phase = .building pkt) :
    finishBuild s = .next ((s.withPhase .idle).addReply (.packet (packetOfWord pkt))) := by
  simp only [finishBuild, h]

theorem withBuiltPacket_idle {s : State} (w : PacketWord) (use : Packet → State → State)
    (h : s.phase = .idle) : withBuiltPacket w use s = .next (use (packetOfWord w) s) := by
  simp only [withBuiltPacket, h]

theorem withBuiltPacket_building {s : State} {pkt : PacketWord} (w : PacketWord)
    (use : Packet → State → State) (h : s.phase = .building pkt) :
    withBuiltPacket w use s = .refused .buildInProgress := by simp only [withBuiltPacket, h]

/-- A setter that answers a next state was in a build, and changed only its buffer. -/
theorem setField_next {f : Field} {n : Nat} {v : BitVec n} {s t : State} (h : setField f v s = .next t) :
    ∃ pkt, s.phase = .building pkt ∧ t = s.withPhase (.building (fieldWrite f v pkt)) := by
  cases hp : s.phase with
  | idle => simp only [setField_idle f v hp] at h; cases h
  | building pkt => simp only [setField_building f v hp] at h; cases h; exact ⟨pkt, rfl, rfl⟩

/-- An operation on a built packet that answers a next state was Idle. -/
theorem withBuiltPacket_next {w : PacketWord} {use : Packet → State → State} {s t : State}
    (h : withBuiltPacket w use s = .next t) : s.phase = .idle ∧ t = use (packetOfWord w) s := by
  cases hp : s.phase with
  | idle => simp only [withBuiltPacket_idle w use hp] at h; cases h; exact ⟨rfl, rfl⟩
  | building pkt => simp only [withBuiltPacket_building w use hp] at h; cases h

/-! ## Bits -/

/-- A mask holds exactly the field's bits, so RSV is in none (R100, R117). -/
theorem fieldMask_bit (f : Field) {k : Nat} (hk : k < 24) :
    (fieldMask f).getLsbD k = decide (fieldShift f ≤ k ∧ k < fieldShift f + fieldWidth f) := by
  have h : ∀ k < 24, (fieldMask f).getLsbD k =
      decide (fieldShift f ≤ k ∧ k < fieldShift f + fieldWidth f) := by cases f <;> decide
  exact h k hk

/-! ## The transport -/

/-- The bytes of a packet are sent while the draws are Ok, and the sending ends at the first failure; the
pin's draws, CS and everything but the wire and the `Send` draws are as before. -/
theorem sendBytes_spec (bs : List Byte) (s : State) :
    ∃ n evs, (sendBytes bs s).2 =
        { s with wire := s.wire ++ evs, sendDraws := s.sendDraws.drop n, sendCalls := s.sendCalls + n } ∧
      evs = (bs.take n).mapIdx (fun k b => WireEvent.send b (s.sendDraw k)) ∧ n ≤ bs.length := by
  induction bs generalizing s with
  | nil => exact ⟨0, [], by simp [sendBytes], rfl, Nat.le_refl _⟩
  | cons b bs ih =>
    cases hd : s.sendDraw 0 with
    | err t =>
      refine ⟨1, [.send b (s.sendDraw 0)], ?_, by simp, by simp⟩
      simp [sendBytes, hd, State.afterSend]
    | ok =>
      obtain ⟨n, evs, h1, h2, h3⟩ := ih (s.afterSend b)
      refine ⟨n + 1, .send b (s.sendDraw 0) :: evs, ?_, ?_, by simpa using h3⟩
      · simp only [sendBytes, hd, h1]
        simp [hd, Nat.add_comm, Nat.add_left_comm]
      · subst h2
        simp [List.mapIdx_cons]

end Sys2Proof.Machine
end

