-- ==== Sys2Proof/Laws/PerInstr.lean ====
section
/-! SUPPORT. Statements made per instruction: the fixed bits of an encoded instruction are its row's
(30_encoding.md R73, R78). -/

namespace Sys2Proof.Laws.FixedBits

/-- The encoded word holds its row's fixed bits. -/
def Statement (i : Instr) : Prop :=
  ∀ t : GainAssignment, encode t i &&& (rowOf i).mask = (rowOf i).pattern

/-- An equation of packet words holds if it holds bit by bit. -/
theorem word_ext {x y : PacketWord} (h : ∀ k < 24, x.getLsbD k = y.getLsbD k) : x = y :=
  BitVec.eq_of_getLsbD_eq fun k hk => h k hk

/-- The 16 low bits of a data-form word are outside the mask of its CMD and RSV bits. -/
theorem data_form (c : BitVec 5) (a : BitVec 3) (v : Half) :
    ((c ++ a ++ v : PacketWord) &&& 0xF80000) = (c ++ 0#3 ++ 0#16 : PacketWord) := by
  refine word_ext fun k hk => ?_
  simp only [BitVec.getLsbD_and, BitVec.getLsbD_append]
  interval_cases k <;> simp

theorem writeN (ch : Channel) (v : Half) : Statement (.writeN ch v) := fun _ => data_form 0 ch.code v
theorem writeGain (g : GainMode) : Statement (.writeGain g) := by intro t; cases t <;> cases g <;> decide
theorem swLatch : Statement .swLatch := by intro t; cases t <;> decide
theorem wuAll (ch : Channel) (v : Half) : Statement (.wuAll ch v) := fun _ => data_form 2 ch.code v
theorem wuN (ch : Channel) (v : Half) : Statement (.wuN ch v) := fun _ => data_form 3 ch.code v
theorem power (m : PowerMode) (sel : PowerSel) : Statement (.power m sel) := by
  intro t; cases t <;> cases m <;> cases sel <;> decide
theorem reset (r : ResetMode) : Statement (.reset r) := by intro t; cases t <;> cases r <;> decide
theorem ldacCtrl (l : LdacMode) : Statement (.ldacCtrl l) := by intro t; cases t <;> cases l <;> decide
theorem refCtrl (e : Ref) : Statement (.refCtrl e) := by intro t; cases t <;> cases e <;> decide
theorem new : Statement .new := by intro t; cases t <;> decide
theorem setCmd (op : Op) : Statement (.setCmd op) := fun _ => BitVec.and_zero
theorem setAddr (adr : Addr) : Statement (.setAddr adr) := fun _ => BitVec.and_zero
theorem setData (v : Half) : Statement (.setData v) := fun _ => BitVec.and_zero
theorem setGain (g : GainMode) : Statement (.setGain g) := fun _ => BitVec.and_zero
theorem setPdMode (m : PowerMode) : Statement (.setPdMode m) := fun _ => BitVec.and_zero
theorem setPdSel (sel : PowerSel) : Statement (.setPdSel sel) := fun _ => BitVec.and_zero
theorem setRstMode (r : ResetMode) : Statement (.setRstMode r) := fun _ => BitVec.and_zero
theorem setLdacMode (l : LdacMode) : Statement (.setLdacMode l) := fun _ => BitVec.and_zero
theorem setRef (e : Ref) : Statement (.setRef e) := fun _ => BitVec.and_zero
theorem finalize : Statement .finalize := by intro t; cases t <;> decide
theorem devInit : Statement .devInit := by intro t; cases t <;> decide
theorem devSetPower (m : PowerMode) (sel : PowerSel) : Statement (.devSetPower m sel) := by
  intro t; cases t <;> cases m <;> cases sel <;> decide
theorem devWrite (v : Half) (ch : Channel) : Statement (.devWrite v ch) := fun _ => data_form 0 ch.code v
theorem devLatch : Statement .devLatch := by intro t; cases t <;> decide

end Sys2Proof.Laws.FixedBits
end

