-- ==== Sys2Proof/Tests/Slice0.lean ====
section
/-! SUPPORT. The model's own tests. Expected values come from the encoding tables of spec/ and from the
vectors of 95_test_vectors.md, whose ids stand beside them. Then one witness per statement that has
hypotheses: states and operands that meet all of them. -/

namespace Sys2Proof.Tests

open Sys2Proof.Machine

/-! ## Helpers -/

/-- Reset under concrete parameters: the suggested GAIN_CODE, no release errors, CS high. -/
def idle0 : State := State.resetWith ⟨.c320, false, .high⟩

/-- A build in progress. -/
def inBuild (w : PacketWord) : State := { idle0 with phase := .building w }

/-- Idle, with listed draws. -/
def withDraws (surface : Bool) (pins : List PinResult) (sends : List SendResult) : State :=
  { State.resetWith ⟨.c320, surface, .high⟩ with pinDraws := pins, sendDraws := sends }

/-- A state whose next request is `r`. -/
def withRequest (r : Request) : State := { idle0 with requests := [r, .call .new] }

def bufferOf : Host.Outcome State Fault Refusal → Option Phase
  | .next s => some s.phase
  | .fault _ => none
  | .refused _ => none

def repliesOf : Host.Outcome State Fault Refusal → Option (List Reply)
  | .next s => some s.replies
  | .fault _ => none
  | .refused _ => none

def wireOf : Host.Outcome State Fault Refusal → Option (List WireEvent)
  | .next s => some s.wire
  | .fault _ => none
  | .refused _ => none

def refusalOf : Host.Outcome State Fault Refusal → Option Refusal
  | .next _ => none
  | .fault _ => none
  | .refused r => some r

/-- All transport calls Ok. -/
def allOk : State := withDraws false [.ok, .ok] [.ok, .ok, .ok]

/-- A failure of each kind that the OPEN types have whatever their extent. -/
def t0 : TxError := ⟨0, .inl rfl⟩
def p0 : PinError := ⟨0, .inl rfl⟩

/-- `write 0x1234, AB`, the packet of vectors T1 to T8. -/
def write1234 : Instr := .devWrite 0x1234 .ab

/-! ## WellFormed: each check refuses an ill-formed word -/

theorem test_reservedClear_refuses : reservedClear 0x400000 = false ∧ reservedClear 0x3F0000 = true := by decide
theorem test_addressEnumerated_refuses :
    addressEnumerated 0x030000 = false ∧ addressEnumerated 0x060000 = false ∧
      addressEnumerated 0x070000 = true ∧ addressEnumerated 0x020000 = true := by decide
theorem test_isBuilderWord_refuses : isBuilderWord 0x800000 = false ∧ isBuilderWord 0x050000 = false := by decide
theorem test_addressIsChannel_refuses : addressIsChannel 0x020000 = false := by decide
/-- Class (c) of R75: SW_LATCH to A, a control kind with B1, POWER with PD_SEL 0, WU_ALL to GAIN. -/
theorem test_isEncodeWord_refuses :
    isEncodeWord 0x080000 = false ∧ isEncodeWord 0x280100 = false ∧
      isEncodeWord 0x200010 = false ∧ isEncodeWord 0x120000 = false := by decide
theorem test_wellFormed_all_operands : (Instr.setData 0xFFFF).wellFormed = true := by decide

/-! ## Decoding, each word written out from the spec's encoding of the row -/

theorem test_decode_writeN :
    decodeRow .c320 .writeN 0b000001110001001000110100 = .instr (.writeN .ab 0x1234) := by decide
theorem test_decode_writeGain :
    decodeRow .c320 .writeGain 0b000000100000000000000011 = .instr (.writeGain .a1b1) := by decide
theorem test_decode_swLatch : decodeRow .c320 .swLatch 0b000011110000000000000000 = .instr .swLatch := by decide
theorem test_decode_wuAll :
    decodeRow .c320 .wuAll 0b000100011111111111111110 = .instr (.wuAll .b 0xFFFE) := by decide
theorem test_decode_wuN :
    decodeRow .c320 .wuN 0b000110000000000000000001 = .instr (.wuN .a 0x0001) := by decide
theorem test_decode_power :
    decodeRow .c320 .power 0b001000000000000000110010 = .instr (.power .hiz .b) := by decide
theorem test_decode_reset : decodeRow .c320 .reset 0b001010000000000000000000 = .instr (.reset .input) := by decide
theorem test_decode_ldacCtrl :
    decodeRow .c320 .ldacCtrl 0b001100000000000000000010 = .instr (.ldacCtrl .ldacA) := by decide
theorem test_decode_refCtrl :
    decodeRow .c320 .refCtrl 0b001110000000000000000001 = .instr (.refCtrl .enable) := by decide
theorem test_decode_new : decodeRow .c320 .new 0b000000000000000000000000 = .instr .new := by decide
theorem test_decode_setCmd :
    decodeRow .c320 .setCmd 0b001010000000000000000000 = .instr (.setCmd .reset) := by decide
theorem test_decode_setAddr :
    decodeRow .c320 .setAddr 0b000000100000000000000000 = .instr (.setAddr .gain) := by decide
theorem test_decode_setData :
    decodeRow .c320 .setData 0b000000001010101111001101 = .instr (.setData 0xABCD) := by decide
theorem test_decode_setGain :
    decodeRow .c320 .setGain 0b000000000000000000000001 = .instr (.setGain .a1b2) := by decide
theorem test_decode_setPdMode :
    decodeRow .c320 .setPdMode 0b000000000000000000010000 = .instr (.setPdMode .pd1k) := by decide
theorem test_decode_setPdSel :
    decodeRow .c320 .setPdSel 0b000000000000000000000011 = .instr (.setPdSel .ab) := by decide
theorem test_decode_setRstMode :
    decodeRow .c320 .setRstMode 0b000000000000000000000001 = .instr (.setRstMode .all) := by decide
theorem test_decode_setLdacMode :
    decodeRow .c320 .setLdacMode 0b000000000000000000000001 = .instr (.setLdacMode .ldacB) := by decide
theorem test_decode_setRef :
    decodeRow .c320 .setRef 0b000000000000000000000000 = .instr (.setRef .disable) := by decide
theorem test_decode_finalize : decodeRow .c320 .finalize 0b000000000000000000000000 = .instr .finalize := by decide
theorem test_decode_devInit : decodeRow .c320 .devInit 0b001010000000000000000001 = .instr .devInit := by decide
theorem test_decode_devSetPower :
    decodeRow .c320 .devSetPower 0b001000000000000000000011 = .instr (.devSetPower .up .ab) := by decide
theorem test_decode_devWrite :
    decodeRow .c320 .devWrite 0b000000011000000000000000 = .instr (.devWrite 0x8000 .b) := by decide
theorem test_decode_devLatch :
    decodeRow .c320 .devLatch 0b000011110000000000000000 = .instr .devLatch := by decide

/-- PD_SEL code 0 has no enumerator (R68), nor has an ADDR code 3 (R64); a RESET word is no LDAC_CTRL. -/
theorem test_decodeRow_rejects :
    decodeRow .c320 .setPdSel 0 = .reject .operandNotEnumerated ∧
      decodeRow .c320 .writeN 0x030000 = .reject .operandNotEnumerated ∧
      decodeRow .c320 .ldacCtrl 0x280000 = .reject .fixedBits := by decide
/-- S2, S3, S4, S6, K2 as bytes. -/
theorem test_decodeBytes_vectors :
    decodeBytes .c320 [0x07, 0x12, 0x34] = .instr (.writeN .ab 0x1234) ∧
      decodeBytes .c320 [0x0F, 0x00, 0x00] = .instr .swLatch ∧
      decodeBytes .c320 [0x02, 0x00, 0x01] = .instr (.writeGain .a1b2) ∧
      decodeBytes .c320 [0x20, 0x00, 0x23] = .instr (.power .pd100k .ab) ∧
      decodeBytes .c320 [0x28, 0x00, 0x01] = .instr (.reset .all) := by decide
/-- The encoder on S6 and E10. -/
theorem test_encode_vectors :
    encode .c320 (.power .pd100k .ab) = 0x200023 ∧ encode .c320 (.wuN .b 0x7FFF) = 0x197FFF := by decide
/-- The fixed names of the host, on the table's numbering. -/
theorem test_decodeTableWord :
    decodeTableWord 24 0x071234 = some (.writeN .ab 0x1234) ∧ decodeTableWord 24 0x400000 = none := by decide
theorem test_withFetchWord_runs :
    repliesOf (step (State.reset.withFetchWord 24 0x380001)) = some [.packet ⟨0x38, 0x00, 0x01⟩] := by decide

/-! ## One step per builder operation -/

/-- B1, X4. -/
theorem test_new : bufferOf (exec .new idle0) = some (.building 0) ∧
    refusalOf (exec .new (inBuild 0)) = some .buildInProgress := by decide
/-- B5. -/
theorem test_setCmd : bufferOf (exec (.setCmd .power) (inBuild 0x380000)) = some (.building 0x200000) := by decide
/-- B6, B7. -/
theorem test_setAddr :
    bufferOf (exec (.setAddr .a) (inBuild 0x070000)) = some (.building 0x000000) ∧
      bufferOf (exec (.setAddr .ab) (inBuild 0x380000)) = some (.building 0x3F0000) := by decide
/-- B4. -/
theorem test_setData : bufferOf (exec (.setData 0xABCD) (inBuild 0x001234)) = some (.building 0x00ABCD) := by decide
/-- R107's example. -/
theorem test_setGain : bufferOf (exec (.setGain .a1b2) (inBuild 0x020000)) = some (.building 0x020001) := by decide
/-- B8. -/
theorem test_setPdMode : bufferOf (exec (.setPdMode .up) (inBuild 0x000033)) = some (.building 0x000003) := by decide
/-- B9. -/
theorem test_setPdSel : bufferOf (exec (.setPdSel .a) (inBuild 0x00FFFF)) = some (.building 0x00FFFD) := by decide
/-- B10. -/
theorem test_setRstMode : bufferOf (exec (.setRstMode .input) (inBuild 0x000003)) = some (.building 0x000002) := by decide
/-- R111's corner case. -/
theorem test_setLdacMode : bufferOf (exec (.setLdacMode .ldacAll) (inBuild 0x00FFFF)) = some (.building 0x00FFFC) := by decide
/-- R112's example. -/
theorem test_setRef : bufferOf (exec (.setRef .enable) (inBuild 0)) = some (.building 0x000001) := by decide
/-- R113's example. -/
theorem test_finalize :
    repliesOf (exec .finalize (inBuild 0x071234)) = some [.packet ⟨0x07, 0x12, 0x34⟩] ∧
      bufferOf (exec .finalize (inBuild 0x071234)) = some .idle := by decide
/-- X1, X2. -/
theorem test_noBuild : refusalOf (exec (.setCmd .power) idle0) = some .noBuild ∧
    refusalOf (exec .finalize idle0) = some .noBuild := by decide

/-! ## One step per encode operation -/

/-- S2, E3. -/
theorem test_writeN : repliesOf (exec (.writeN .ab 0x1234) idle0) = some [.packet ⟨0x07, 0x12, 0x34⟩] ∧
    repliesOf (exec (.writeN .b 0x8000) idle0) = some [.packet ⟨0x01, 0x80, 0x00⟩] := by decide
/-- S4, G4. -/
theorem test_writeGain : repliesOf (exec (.writeGain .a1b2) idle0) = some [.packet ⟨0x02, 0x00, 0x01⟩] ∧
    repliesOf (exec (.writeGain .a1b1) idle0) = some [.packet ⟨0x02, 0x00, 0x03⟩] := by decide
/-- S3. -/
theorem test_swLatch : repliesOf (exec .swLatch idle0) = some [.packet ⟨0x0F, 0x00, 0x00⟩] := by decide
/-- E6. -/
theorem test_wuAll : repliesOf (exec (.wuAll .a 0xABCD) idle0) = some [.packet ⟨0x10, 0xAB, 0xCD⟩] := by decide
/-- E10. -/
theorem test_wuN : repliesOf (exec (.wuN .b 0x7FFF) idle0) = some [.packet ⟨0x19, 0x7F, 0xFF⟩] := by decide
/-- S5, S6. -/
theorem test_power : repliesOf (exec (.power .up .ab) idle0) = some [.packet ⟨0x20, 0x00, 0x03⟩] ∧
    repliesOf (exec (.power .pd100k .ab) idle0) = some [.packet ⟨0x20, 0x00, 0x23⟩] := by decide
/-- K2. -/
theorem test_reset : repliesOf (exec (.reset .all) idle0) = some [.packet ⟨0x28, 0x00, 0x01⟩] := by decide
/-- S7, S8. -/
theorem test_ldacCtrl : repliesOf (exec (.ldacCtrl .ldacAll) idle0) = some [.packet ⟨0x30, 0x00, 0x00⟩] ∧
    repliesOf (exec (.ldacCtrl .ldacNone) idle0) = some [.packet ⟨0x30, 0x00, 0x03⟩] := by decide
/-- S9, S10. -/
theorem test_refCtrl : repliesOf (exec (.refCtrl .enable) idle0) = some [.packet ⟨0x38, 0x00, 0x01⟩] ∧
    repliesOf (exec (.refCtrl .disable) idle0) = some [.packet ⟨0x38, 0x00, 0x00⟩] := by decide

/-! ## One step per device operation -/

/-- O1. -/
theorem test_devInit : wireOf (exec .devInit allOk) = some
    [.setCs .low .ok, .send 0x28 .ok, .send 0x00 .ok, .send 0x01 .ok, .setCs .high .ok] := by decide
/-- O3. -/
theorem test_devSetPower : wireOf (exec (.devSetPower .hiz .b) allOk) = some
    [.setCs .low .ok, .send 0x20 .ok, .send 0x00 .ok, .send 0x32 .ok, .setCs .high .ok] := by decide
/-- O6. -/
theorem test_devLatch : wireOf (exec .devLatch allOk) = some
    [.setCs .low .ok, .send 0x0F .ok, .send 0x00 .ok, .send 0x00 .ok, .setCs .high .ok] := by decide
/-- T1, and T4 with T8's failed release: the earlier error wins. -/
theorem test_devWrite (t1 : TxError) (p2 : PinError) :
    repliesOf (exec write1234 allOk) = some [.device .ok] ∧
      repliesOf (exec write1234 (withDraws true [.ok, .err p2 .low] [.ok, .err t1])) =
        some [.device (.err (.tx t1))] := ⟨rfl, rfl⟩
/-- T4's trace: nothing after the failed byte but the release. -/
theorem test_devWrite_abort (t1 : TxError) :
    wireOf (exec write1234 (withDraws false [.ok, .ok] [.ok, .err t1])) = some
      [.setCs .low .ok, .send 0x07 .ok, .send 0x12 (.err t1), .setCs .high .ok] := rfl
/-- T2. -/
theorem test_txn_assert_fails (p1 : PinError) :
    wireOf (step { withDraws false [.err p1 .high, .ok] [] with requests := [.txn ⟨0x38, 0x00, 0x01⟩] }) =
      some [.setCs .low (.err p1 .high), .setCs .high .ok] := rfl
/-- T6, T7. -/
theorem test_txn_release_fails (p2 : PinError) :
    repliesOf (exec write1234 (withDraws false [.ok, .err p2 .low] [.ok, .ok, .ok])) = some [.device .ok] ∧
      repliesOf (exec write1234 (withDraws true [.ok, .err p2 .low] [.ok, .ok, .ok])) =
        some [.device (.err (.pin p2))] := ⟨rfl, rfl⟩

/-! ## Requests -/

theorem test_step_refusals :
    refusalOf (step (withRequest (.overlapping .new))) = some .overlappingRequest ∧
      refusalOf (step (withRequest (.txn ⟨0x40, 0, 0⟩))) = some (.notProduced .reservedBits) ∧
      refusalOf (step (withRequest (.bytes [0x08, 0, 0]))) = some (.notProduced .builderOnly) := by decide

/-! ## Witnesses: the hypotheses of the statements are met -/

theorem witness_DecoderNamesRejectedClass :
    (0x400000 : PacketWord).extractLsb' 22 2 ≠ 0 ∧
      ((0x030000 : PacketWord).extractLsb' 22 2 = 0 ∧
        (0x030000 : PacketWord).extractLsb' 16 3 ∈ [(3 : BitVec 3), 4, 5, 6]) ∧
      ((0x060000 : PacketWord).extractLsb' 22 2 = 0 ∧
        (0x060000 : PacketWord).extractLsb' 16 3 ∈ [(3 : BitVec 3), 4, 5, 6]) ∧
      (isBuilderWord 0x080000 = true ∧ isEncodeWord 0x080000 = false) := by decide
theorem witness_PacketRowsAreDisjoint :
    Row.wuN ∈ packetRows ∧ decodeRow .c320 .wuN 0x180000 = .instr (.wuN .a 0) := by decide
theorem witness_OnlyThreeBytesDecode : ([] : List Byte).length ≠ 3 ∧ [(0 : Byte), 0, 0, 0].length ≠ 3 := by decide
theorem witness_GainCodeRangesOverAllInjections :
    Function.Injective (gainCode .c320) ∧ gainCode .c320 .a1b2 = 1 :=
  ⟨by intro x y; cases x <;> cases y <;> decide, rfl⟩
theorem witness_FieldWriteIsExact : 23 < 24 ∧ fieldShift .pdMode ≤ 5 ∧ 5 < fieldShift .pdMode + fieldWidth .pdMode := by decide
/-- For NewStartsZeroBuild, every Encodes and every DeviceOpFrames. -/
theorem witness_idle : idle0.phase = .idle := rfl
/-- For every SetsField, on the bits beside a field, and for FinalizeReturnsThreeBytes. -/
theorem witness_building : (inBuild 0x3FFFFF).phase = .building 0x3FFFFF ∧ (18 < 19 ∨ 22 ≤ 18) ∧ (22 < 19 ∨ 19 + 3 ≤ 22) := by decide
theorem witness_SetDataWritesPayload :
    exec (.setData 0x1234) (inBuild 0) = .next (inBuild 0x001234) ∧ (inBuild 0x001234).phase = .building 0x001234 := ⟨rfl, rfl⟩
theorem witness_FinalizeReturnsThreeBytes : needsBuild (.setRef .enable) = true ∧ needsBuild .finalize = true := by decide
theorem witness_InstructionsRefusedExactlyOutOfPhase :
    (needsBuild .finalize = true ∧ idle0.phase = .idle) ∧ (needsBuild .new = false ∧ (inBuild 0).phase ≠ .idle) ∧
      (needsBuild .new = true ↔ idle0.phase ≠ .idle) ∧ (needsBuild .finalize = true ↔ (inBuild 0).phase ≠ .idle) := by decide
theorem witness_LaterCoveringSetterWins :
    setterField (.setRef .enable) = some .ref ∧ setterField (.setPdSel .b) = some .pdSel ∧
      fieldMask .ref &&& ~~~(fieldMask .pdSel) = 0 ∧ fieldMask .cmd &&& ~~~(fieldMask .cmd) = 0 := by decide
theorem witness_DisjointSettersCommute :
    setterField (.setCmd .reset) = some .cmd ∧ setterField (.setAddr .ab) = some .addr ∧
      fieldMask .cmd &&& fieldMask .addr = 0 ∧ fieldMask .pdMode &&& fieldMask .gain = 0 := by decide
theorem witness_BuildsForgetTheirPast :
    (∀ i ∈ [Instr.setCmd .wuN, .setGain .a1b1], (setterField i).isSome = true) ∧ idle0.phase = .idle ∧
      allOk.phase = .idle ∧ idle0.params = allOk.params ∧ idle0 ≠ allOk := by decide
theorem witness_BuilderReachesEveryBuilderWord : isBuilderWord 0x3FFFFF = true ∧ isBuilderWord 0 = true := by decide
theorem witness_EncodeOpsAreTheirExpansions :
    isEncodeOp (.power .hiz .a) = true ∧
      [Instr.setPdSel .a, .setCmd .power, .setPdMode .hiz].Perm (expansion (.power .hiz .a)) := by decide
theorem witness_EncodeOpsReturnExactlyEncodeWords :
    isEncodeWord 0x1FFFFF = true ∧ idle0.phase = .idle ∧ idle0.params.gainCodes = .c320 := by decide
theorem witness_EncoderOpsDoNoIo : isDeviceOp .new = false ∧ exec .new idle0 = .next (inBuild 0) := ⟨rfl, rfl⟩
theorem witness_TxnOutcomeOnEveryPath :
    (withDraws false [.err p0 .low] []).pinDraw 0 = .err p0 .low ∧
      ((withDraws false [.ok] [.err t0]).pinDraw 0 = .ok ∧ (withDraws false [.ok] [.err t0]).sendDraw 0 = .err t0) ∧
      ((withDraws false [.ok] [.ok, .err t0]).pinDraw 0 = .ok ∧ (withDraws false [.ok] [.ok, .err t0]).sendDraw 0 = .ok ∧
        (withDraws false [.ok] [.ok, .err t0]).sendDraw 1 = .err t0) ∧
      ((withDraws false [.ok] [.ok, .ok, .err t0]).pinDraw 0 = .ok ∧
        (withDraws false [.ok] [.ok, .ok, .err t0]).sendDraw 0 = .ok ∧
        (withDraws false [.ok] [.ok, .ok, .err t0]).sendDraw 1 = .ok ∧
        (withDraws false [.ok] [.ok, .ok, .err t0]).sendDraw 2 = .err t0) ∧
      (allOk.pinDraw 0 = .ok ∧ allOk.sendDraw 0 = .ok ∧ allOk.sendDraw 1 = .ok ∧ allOk.sendDraw 2 = .ok) := by decide
theorem witness_FailedSendEndsTheSending :
    (0 < 3 ∧ (withDraws false [.ok] [.err t0]).pinDraw 0 = .ok ∧ (withDraws false [.ok] [.err t0]).sendDraw 0 = .err t0) ∧
      (2 < 3 ∧ (withDraws false [.ok] [.ok, .ok, .err t0]).pinDraw 0 = .ok ∧
        (∀ j < 2, (withDraws false [.ok] [.ok, .ok, .err t0]).sendDraw j = .ok) ∧
        (withDraws false [.ok] [.ok, .ok, .err t0]).sendDraw 2 = .err t0) := by decide
theorem witness_LatchFramesSwLatchPacket :
    allOk.phase = .idle ∧ allOk.pinDraw 0 = .ok ∧ allOk.sendDraw 0 = .ok ∧ allOk.sendDraw 1 = .ok ∧
      allOk.sendDraw 2 = .ok ∧ allOk.pinDraw 1 = .ok := by decide
theorem witness_DeviceOpsReturnOneResult :
    isDeviceOp .devLatch = true ∧ exec .devLatch allOk = .next (runTxn ⟨0x0F, 0, 0⟩ allOk) := ⟨rfl, rfl⟩
theorem witness_StepRunsTheDecodedRequest :
    (withRequest (.call .new)).requests = [.call .new, .call .new] ∧
      (withRequest (.row .setRef 1)).requests = [.row .setRef 1, .call .new] ∧
      decodeRow idle0.params.gainCodes .setRef 1 = .instr (.setRef .enable) ∧
      decodeRow idle0.params.gainCodes .setPdSel 0 = .reject .operandNotEnumerated ∧
      (withRequest (.bytes [0x0F, 0, 0])).requests = [.bytes [0x0F, 0, 0], .call .new] ∧
      decodeBytes idle0.params.gainCodes [0x0F, 0, 0] = .instr .swLatch ∧
      decodeBytes idle0.params.gainCodes [0xC0, 0, 0] = .reject .reservedBits ∧
      decodeBytes idle0.params.gainCodes (tableBytes 24 0x0F0000) = .instr .swLatch := by decide
theorem witness_StepOnTheOtherRequests :
    idle0.requests = [] ∧
      (withRequest (.txn ⟨0x38, 0, 1⟩)).requests = [.txn ⟨0x38, 0, 1⟩, .call .new] ∧
      isBuilderWord (wordOfPacket ⟨0x38, 0, 1⟩) = true ∧
      (withRequest (.txn ⟨0x40, 0, 0⟩)).requests = [.txn ⟨0x40, 0, 0⟩, .call .new] ∧
      isBuilderWord (wordOfPacket ⟨0x40, 0, 0⟩) = false ∧
      (withRequest (.overlapping .new)).requests = [.overlapping .new, .call .new] := by decide
theorem witness_PacketBytesRunTheirEncodeOp :
    isEncodeOp .swLatch = true ∧
      packetBytes (packetOfWord (encode idle0.params.gainCodes .swLatch)) = [0x0F, 0x00, 0x00] ∧
      (withRequest (.bytes [0x0F, 0x00, 0x00])).requests = [.bytes [0x0F, 0x00, 0x00], .call .new] := by decide
/-- For ReservedBitsStayZero and the three invariants: a state after a frame and inside a build. -/
def busy : State :=
  { runTxn ⟨0x38, 0x00, 0x01⟩ allOk with phase := .building 0x3FFFFF, requests := [.call .finalize] }
theorem busy_replies : busy.replies = [.device .ok] := by decide
theorem witness_ReservedBitsStayZero : ReservedZero busy :=
  ⟨by intro pkt h; cases h; decide, by intro p h; rw [busy_replies] at h; simp at h⟩
theorem witness_invariants : BuilderInv busy ∧ WireFramed busy ∧ CsFollowsWire busy :=
  ⟨⟨by decide, by decide⟩, by unfold WireFramed; decide, by intro l h; cases h; decide⟩
theorem witness_step : step busy = .next { busy with
    phase := .idle, requests := [], replies := busy.replies ++ [.packet ⟨0x3F, 0xFF, 0xFF⟩] } := rfl
theorem witness_CsAtResetIsTheParameter :
    (⟨.c023, true, .low⟩ : Params).csInitialLevel = .low ∧ (⟨.c023, true, .high⟩ : Params).csInitialLevel = .high := by decide

end Sys2Proof.Tests
end

section
/-! What a completed instruction and a completed step can do, said once, and R24: RSV stays 0. -/

namespace Sys2Proof.Machine

/-! ## The forms of a completed instruction -/

/-- The words that the setters' field writes reach from `p`: an address written is an enumerated one (R64),
every other field takes any code. -/
inductive WrittenFrom (p : PacketWord) : PacketWord → Prop
  | refl : WrittenFrom p p
  | addr {q : PacketWord} (adr : Addr) : WrittenFrom p q → WrittenFrom p (fieldWrite .addr adr.code q)
  | field {q : PacketWord} {f : Field} (hf : f ≠ .addr) {n : Nat} (v : BitVec n) :
      WrittenFrom p q → WrittenFrom p (fieldWrite f v q)

theorem buildData_writtenFrom (op : Op) (ch : Channel) (v : Half) :
    WrittenFrom newBuffer (buildData op ch v) :=
  .field (by decide) v (.addr ch.addr (.field (by decide) op.code .refl))

theorem buildGain_writtenFrom (t : GainAssignment) (g : GainMode) :
    WrittenFrom newBuffer (buildGain t g) :=
  .field (by decide) (gainCode t g) (.addr .gain (.field (by decide) Op.writeN.code .refl))

theorem buildSwLatch_writtenFrom : WrittenFrom newBuffer buildSwLatch :=
  .addr .ab (.field (by decide) Op.swLatch.code .refl)

theorem buildPower_writtenFrom (m : PowerMode) (sel : PowerSel) :
    WrittenFrom newBuffer (buildPower m sel) :=
  .field (by decide) sel.code (.field (by decide) m.code (.field (by decide) Op.power.code .refl))

theorem buildReset_writtenFrom (r : ResetMode) : WrittenFrom newBuffer (buildReset r) :=
  .field (by decide) r.code (.field (by decide) Op.reset.code .refl)

theorem buildLdac_writtenFrom (l : LdacMode) : WrittenFrom newBuffer (buildLdac l) :=
  .field (by decide) l.code (.field (by decide) Op.ldacCtrl.code .refl)

theorem buildRef_writtenFrom (e : Ref) : WrittenFrom newBuffer (buildRef e) :=
  .field (by decide) e.code (.field (by decide) Op.refCtrl.code .refl)

/-- The next state `t` of an instruction completed in `s`: one case per shared operation. -/
inductive Completion (s : State) : State → Prop
  | startsBuild : s.phase = .idle → Completion s (s.withPhase (.building newBuffer))
  | writesField {pkt q : PacketWord} : s.phase = .building pkt → WrittenFrom pkt q →
      Completion s (s.withPhase (.building q))
  | endsBuild {pkt : PacketWord} : s.phase = .building pkt →
      Completion s ((s.withPhase .idle).addReply (.packet (packetOfWord pkt)))
  | returnsPacket {w : PacketWord} : s.phase = .idle → WrittenFrom newBuffer w →
      Completion s (s.addReply (.packet (packetOfWord w)))
  | framesPacket {w : PacketWord} : s.phase = .idle → WrittenFrom newBuffer w →
      Completion s (runTxn (packetOfWord w) s)

theorem startBuild_completion {s t : State} (h : startBuild s = .next t) : Completion s t := by
  cases hp : s.phase with
  | idle => rw [startBuild_idle hp] at h; cases h; exact .startsBuild hp
  | building pkt => rw [startBuild_building hp] at h; cases h

theorem setField_completion {f : Field} (hf : f ≠ .addr) {n : Nat} {v : BitVec n} {s t : State}
    (h : setField f v s = .next t) : Completion s t := by
  obtain ⟨pkt, hp, rfl⟩ := setField_next h
  exact .writesField hp (.field hf v .refl)

theorem setField_addr_completion {adr : Addr} {s t : State} (h : setField .addr adr.code s = .next t) :
    Completion s t := by
  obtain ⟨pkt, hp, rfl⟩ := setField_next h
  exact .writesField hp (.addr adr .refl)

theorem finishBuild_completion {s t : State} (h : finishBuild s = .next t) : Completion s t := by
  cases hp : s.phase with
  | idle => rw [finishBuild_idle hp] at h; cases h
  | building pkt => rw [finishBuild_building hp] at h; cases h; exact .endsBuild hp

theorem replyPacket_completion {w : PacketWord} (hw : WrittenFrom newBuffer w) {s t : State}
    (h : withBuiltPacket w replyPacket s = .next t) : Completion s t := by
  obtain ⟨hp, rfl⟩ := withBuiltPacket_next h
  exact .returnsPacket hp hw

theorem runTxn_completion {w : PacketWord} (hw : WrittenFrom newBuffer w) {s t : State}
    (h : withBuiltPacket w runTxn s = .next t) : Completion s t := by
  obtain ⟨hp, rfl⟩ := withBuiltPacket_next h
  exact .framesPacket hp hw

/-- Inversion of `exec`. -/
theorem exec_completion {i : Instr} {s t : State} (h : exec i s = .next t) : Completion s t := by
  cases i with
  | writeN ch v => exact replyPacket_completion (buildData_writtenFrom .writeN ch v) h
  | writeGain g => exact replyPacket_completion (buildGain_writtenFrom s.params.gainCodes g) h
  | swLatch => exact replyPacket_completion buildSwLatch_writtenFrom h
  | wuAll ch v => exact replyPacket_completion (buildData_writtenFrom .wuAll ch v) h
  | wuN ch v => exact replyPacket_completion (buildData_writtenFrom .wuN ch v) h
  | power m sel => exact replyPacket_completion (buildPower_writtenFrom m sel) h
  | reset r => exact replyPacket_completion (buildReset_writtenFrom r) h
  | ldacCtrl l => exact replyPacket_completion (buildLdac_writtenFrom l) h
  | refCtrl e => exact replyPacket_completion (buildRef_writtenFrom e) h
  | new => exact startBuild_completion h
  | setAddr adr => exact setField_addr_completion h
  | setCmd | setData | setGain | setPdMode | setPdSel | setRstMode | setLdacMode | setRef =>
    exact setField_completion (by decide) h
  | finalize => exact finishBuild_completion h
  | devInit => exact runTxn_completion (buildReset_writtenFrom .all) h
  | devSetPower m sel => exact runTxn_completion (buildPower_writtenFrom m sel) h
  | devWrite v ch => exact runTxn_completion (buildData_writtenFrom .writeN ch v) h
  | devLatch => exact runTxn_completion buildSwLatch_writtenFrom h

/-- Inversion of `step`: there is no request, or the next one names an instruction that completes, or it
frames a packet. -/
theorem step_next {s t : State} (h : step s = .next t) :
    (s.requests = [] ∧ t = s) ∨
      ∃ r rest, s.requests = r :: rest ∧
        ((∃ i, workOf s.params.gainCodes r = .run i ∧ exec i (s.withRequests rest) = .next t) ∨
          ∃ p, workOf s.params.gainCodes r = .frame p ∧ t = runTxn p (s.withRequests rest)) := by
  cases hr : s.requests with
  | nil => simp only [step, hr] at h; cases h; exact .inl ⟨rfl, rfl⟩
  | cons r rest =>
    refine .inr ⟨r, rest, rfl, ?_⟩
    cases hw : workOf s.params.gainCodes r with
    | run i => simp only [step, hr, hw] at h; exact .inl ⟨i, rfl, h⟩
    | frame p => simp only [step, hr, hw] at h; cases h; exact .inr ⟨p, rfl, rfl⟩
    | refuse why => simp only [step, hr, hw] at h; cases h

/-! ## What a transaction leaves of the encoder -/

theorem sendBytes_keeps (bs : List Byte) (s : State) :
    (sendBytes bs s).2.phase = s.phase ∧ (sendBytes bs s).2.replies = s.replies := by
  obtain ⟨n, evs, hs, -, -⟩ := sendBytes_spec bs s
  simp [hs]

theorem assertAndSend_keeps (p : Packet) (s : State) :
    (assertAndSend p s).2.phase = s.phase ∧ (assertAndSend p s).2.replies = s.replies := by
  cases hd : s.pinDraw 0 with
  | ok => simpa [assertAndSend, hd] using sendBytes_keeps (packetBytes p) (s.afterSetCs .low)
  | err e left => simp [assertAndSend, hd]

@[simp] theorem runTxn_phase (p : Packet) (s : State) : (runTxn p s).phase = s.phase := by
  simp [runTxn, assertAndSend_keeps]

/-- TXN hands the client one result, and no packet. -/
theorem runTxn_replies (p : Packet) (s : State) :
    ∃ r : DeviceResult, (runTxn p s).replies = s.replies ++ [.device r] := by
  simp [runTxn, assertAndSend_keeps]

/-! ## RSV -/

/-- No mask reaches bits 23 and 22 (R24, R100). -/
theorem fieldMask_reserved (f : Field) :
    (fieldMask f).extractLsb' 22 2 = 0#2 ∧ (~~~fieldMask f).extractLsb' 22 2 = BitVec.allOnes 2 := by
  cases f <;> decide

theorem fieldWrite_reserved (f : Field) {n : Nat} (v : BitVec n) (w : PacketWord) :
    (fieldWrite f v w).extractLsb' 22 2 = w.extractLsb' 22 2 := by
  obtain ⟨hmask, hnot⟩ := fieldMask_reserved f
  rw [fieldWrite, BitVec.extractLsb'_or, BitVec.extractLsb'_and, BitVec.extractLsb'_and, hmask, hnot,
    BitVec.and_allOnes, BitVec.and_zero, BitVec.or_zero]

theorem WrittenFrom.reserved {p q : PacketWord} (h : WrittenFrom p q) :
    q.extractLsb' 22 2 = p.extractLsb' 22 2 := by
  induction h with
  | refl => rfl
  | addr adr _ ih => rw [fieldWrite_reserved, ih]
  | field _ v _ ih => rw [fieldWrite_reserved, ih]

/-- RSV of a packet's first byte is RSV of its word. -/
theorem packetOfWord_reserved (w : PacketWord) :
    (packetOfWord w).b0.extractLsb' 6 2 = w.extractLsb' 22 2 := by
  ext k hk
  have hk8 : 6 + k < 8 := by omega
  simp [packetOfWord, hk8, ← Nat.add_assoc]

namespace ReservedZero

variable {s : State}

theorem building (h : ReservedZero s) {w : PacketWord} (hw : w.extractLsb' 22 2 = 0) :
    ReservedZero (s.withPhase (.building w)) := by
  refine ⟨fun pkt hp => ?_, h.2⟩
  cases hp
  exact hw

theorem idle (h : ReservedZero s) : ReservedZero (s.withPhase .idle) :=
  ⟨fun _ hp => (nomatch hp), h.2⟩

theorem addPacket (h : ReservedZero s) {w : PacketWord} (hw : w.extractLsb' 22 2 = 0) :
    ReservedZero (s.addReply (.packet (packetOfWord w))) := by
  refine ⟨h.1, fun p hp => ?_⟩
  obtain hp | hp := List.mem_append.1 hp
  · exact h.2 p hp
  · cases List.mem_singleton.1 hp
    rw [packetOfWord_reserved, hw]

theorem txn (h : ReservedZero s) (p : Packet) : ReservedZero (runTxn p s) := by
  obtain ⟨r, hr⟩ := runTxn_replies p s
  exact ⟨by simpa using h.1, by simpa [hr] using h.2⟩

theorem completion (h : ReservedZero s) {t : State} (hc : Completion s t) : ReservedZero t := by
  cases hc with
  | startsBuild _ => exact h.building rfl
  | writesField hp hw => exact h.building (hw.reserved.trans (h.1 _ hp))
  | endsBuild hp => exact h.idle.addPacket (h.1 _ hp)
  | returnsPacket _ hw => exact h.addPacket hw.reserved
  | framesPacket _ _ => exact h.txn _

theorem withRequests (h : ReservedZero s) (rs : List Request) : ReservedZero (s.withRequests rs) := h

theorem step (h : ReservedZero s) {t : State} (hs : Machine.step s = .next t) : ReservedZero t := by
  obtain ⟨-, rfl⟩ | ⟨r, rest, -, ⟨i, -, hi⟩ | ⟨p, -, rfl⟩⟩ := step_next hs
  · exact h
  · exact (h.withRequests rest).completion (exec_completion hi)
  · exact (h.withRequests rest).txn p

end ReservedZero

theorem reservedZero_resetWith (p : Params) : ReservedZero (State.resetWith p) :=
  ⟨fun _ hp => (nomatch hp), fun _ hp => (nomatch hp)⟩

/-- Settles O50: R24 holds at reset, and every form of completion and every step keeps it, because no
field's mask reaches RSV. -/
theorem reservedBitsStayZero : Obligations.ReservedBitsStayZero :=
  ⟨reservedZero_resetWith, fun _ _ _ h he => h.completion (exec_completion he), fun _ _ h hs => h.step hs⟩

end Sys2Proof.Machine
end

section
/-! The masked field write bit by bit (R100), and the setters of CMD, ADDR and DATA (R104 to R106). -/

namespace Sys2Proof.Machine

/-! ## FieldWrite, bit by bit -/

/-- A bit of the field is the value's, for the mask clears it in the old word and lets the value through. -/
theorem fieldWrite_bit_inside (f : Field) {n : Nat} (v : BitVec n) (w : PacketWord) {k : Nat} (hk : k < 24)
    (hf : fieldShift f ≤ k ∧ k < fieldShift f + fieldWidth f) :
    (fieldWrite f v w).getLsbD k = v.getLsbD (k - fieldShift f) := by
  have hmask : (fieldMask f).getLsbD k = true := by simp [fieldMask_bit f hk, hf]
  have hlow : k - fieldShift f < 24 := by omega
  simp [fieldWrite, -BitVec.getLsbD_eq_getElem, hmask, hk, hlow, Nat.not_lt.2 hf.1]

/-- A bit outside the field is the old word's, for the mask keeps it and stops the value. -/
theorem fieldWrite_bit_outside (f : Field) {n : Nat} (v : BitVec n) (w : PacketWord) {k : Nat}
    (hf : k < fieldShift f ∨ fieldShift f + fieldWidth f ≤ k) :
    (fieldWrite f v w).getLsbD k = w.getLsbD k := by
  by_cases hk : k < 24
  · have hmask : (fieldMask f).getLsbD k = false := by
      rw [fieldMask_bit f hk, decide_eq_false_iff_not]
      omega
    simp [fieldWrite, -BitVec.getLsbD_eq_getElem, hmask, hk]
  · rw [BitVec.getLsbD_of_ge _ k (by omega), BitVec.getLsbD_of_ge _ k (by omega)]

theorem fieldShift_add_fieldWidth_le (f : Field) : fieldShift f + fieldWidth f ≤ 24 := by
  cases f <;> decide

/-- A value as wide as its field is read back whole. -/
theorem fieldWrite_extract (f : Field) (v : BitVec (fieldWidth f)) (w : PacketWord) :
    (fieldWrite f v w).extractLsb' (fieldShift f) (fieldWidth f) = v := by
  refine BitVec.eq_of_getLsbD_eq fun k hk => ?_
  have hfit := fieldShift_add_fieldWidth_le f
  rw [BitVec.getLsbD_extractLsb', fieldWrite_bit_inside f v w (by omega) (by omega)]
  simp [hk]

/-! ## The payload of a packet -/

/-- B1 and B2 of a packet are the high and the low byte of W[15:0] (R10, R42). -/
theorem packetOfWord_payload (w : PacketWord) :
    (packetOfWord w).b1 = (w.extractLsb' 0 16).extractLsb' 8 8 ∧
      (packetOfWord w).b2 = (w.extractLsb' 0 16).extractLsb' 0 8 :=
  ⟨(BitVec.extractLsb'_extractLsb'_of_le (by decide)).symm,
    (BitVec.extractLsb'_extractLsb'_of_le (by decide)).symm⟩

/-! ## The instructions as shared operations -/

theorem exec_new (s : State) : exec .new s = startBuild s := rfl
theorem exec_setCmd (op : Op) (s : State) : exec (.setCmd op) s = setField .cmd op.code s := rfl
theorem exec_setAddr (adr : Addr) (s : State) : exec (.setAddr adr) s = setField .addr adr.code s := rfl
theorem exec_setData (v : Half) (s : State) : exec (.setData v) s = setField .data v s := rfl

/-- An instruction that is a write of `f` sets exactly the field `f`. -/
theorem setsField_of_exec {i : Instr} (f : Field) {code : State → BitVec (fieldWidth f)}
    (hi : ∀ s, exec i s = setField f (code s) s) : SetsField i (fieldShift f) (fieldWidth f) code :=
  fun s pkt hp => ⟨fieldWrite f (code s) pkt, (hi s).trans (setField_building f (code s) hp),
    fieldWrite_extract f (code s) pkt, fun _ hk => fieldWrite_bit_outside f (code s) pkt hk⟩

/-! ## Builds call by call -/

theorem runCalls_cons_next {i : Instr} {s t : State} (is : List Instr) (h : exec i s = .next t) :
    runCalls (i :: is) s = runCalls is t := by simp only [runCalls, h]

/-- NEW in Idle, then the other calls, on the zero buffer. -/
theorem runCalls_new {s : State} (is : List Instr) (h : s.phase = .idle) :
    runCalls (.new :: is) s = runCalls is (s.withPhase (.building newBuffer)) :=
  runCalls_cons_next is ((exec_new s).trans (startBuild_idle h))

/-- A write of `f` in a build, then the other calls, on the written buffer. -/
theorem runCalls_setter {i : Instr} {s : State} {pkt : PacketWord} {f : Field} {n : Nat} {v : BitVec n}
    (is : List Instr) (hi : ∀ s, exec i s = setField f v s) :
    runCalls (i :: is) (s.withPhase (.building pkt)) =
      runCalls is (s.withPhase (.building (fieldWrite f v pkt))) :=
  runCalls_cons_next is ((hi _).trans (setField_building f v rfl))

/-! ## SET_CMD, SET_ADDR and SET_DATA -/

/-- Settles O12: SET_CMD is the write of CMD, and the rule's example is run call by call. -/
theorem setCmdWritesCmd : Obligations.SetCmdWritesCmd := by
  refine ⟨fun op => setsField_of_exec .cmd (exec_setCmd op), fun s h => ?_⟩
  have hbuffer : fieldWrite .cmd Op.swLatch.code (fieldWrite .addr Addr.ab.code newBuffer) = 0x0F0000 := by
    decide
  rw [runCalls_new _ h, runCalls_setter _ (exec_setAddr .ab), runCalls_setter _ (exec_setCmd .swLatch),
    hbuffer]
  rfl

/-- Settles O13: SET_ADDR is the write of ADDR; in the rule's example the second write clears what the first
one set. -/
theorem setAddrWritesAddr : Obligations.SetAddrWritesAddr := by
  refine ⟨fun adr => setsField_of_exec .addr (exec_setAddr adr), fun s h => ?_⟩
  have hbuffer : fieldWrite .addr Addr.a.code (fieldWrite .addr Addr.ab.code newBuffer) = 0x000000 := by
    decide
  rw [runCalls_new _ h, runCalls_setter _ (exec_setAddr .ab), runCalls_setter _ (exec_setAddr .a), hbuffer]
  rfl

/-- Settles O14: SET_DATA is the write of DATA, which is the whole payload, so its two bytes are the packet's
B1 and B2. -/
theorem setDataWritesPayload : Obligations.SetDataWritesPayload := by
  have hsets (v : Half) : SetsField (.setData v) 0 16 fun _ => v := setsField_of_exec .data (exec_setData v)
  refine ⟨fun v => ⟨hsets v, fun s t pkt q hp he hq => ?_⟩, fun s h => ?_⟩
  · obtain ⟨q', he', hdata, -⟩ := hsets v s pkt hp
    cases he.symm.trans he'
    cases hq
    simpa only [hdata] using packetOfWord_payload q
  · have hbuffer : fieldWrite .data (0x1234 : Half) newBuffer = 0x001234 := by decide
    rw [runCalls_new _ h, runCalls_setter _ (exec_setData 0x1234), hbuffer]
    rfl

end Sys2Proof.Machine
end

section
/-! The encode operations as builds (R137, R138): the packet each returns, and its builder expansion. -/

namespace Sys2Proof.Machine

/-! ## The instructions as shared operations -/

theorem exec_setLdacMode (l : LdacMode) (s : State) : exec (.setLdacMode l) s = setField .ldacMode l.code s := rfl
theorem exec_setRef (e : Ref) (s : State) : exec (.setRef e) s = setField .ref e.code s := rfl
theorem exec_finalize (s : State) : exec .finalize s = finishBuild s := rfl
theorem exec_ldacCtrl (l : LdacMode) (s : State) :
    exec (.ldacCtrl l) s = withBuiltPacket (buildLdac l) replyPacket s := rfl
theorem exec_refCtrl (e : Ref) (s : State) :
    exec (.refCtrl e) s = withBuiltPacket (buildRef e) replyPacket s := rfl

/-! ## A packet returned -/

/-- An instruction that returns the packet of `w` encodes that packet's bytes. -/
theorem encodes_of_exec {i : Instr} {w : PacketWord} {p : Packet}
    (hi : ∀ s, exec i s = withBuiltPacket w replyPacket s) (hw : packetOfWord w = p) :
    Encodes i fun _ => p := by
  intro s hs
  rw [hi, withBuiltPacket_idle w replyPacket hs, hw]
  rfl

/-! ## A whole build -/

theorem withPhase_eq_self {s : State} {p : Phase} (h : s.phase = p) : s.withPhase p = s := by
  subst h
  rfl

/-- NEW in a build is refused, so no later call is looked at (R102). -/
theorem runCalls_new_building {s : State} {pkt : PacketWord} (is : List Instr) (h : s.phase = .building pkt) :
    runCalls (.new :: is) s = .refused .buildInProgress := by
  simp only [runCalls, exec_new, startBuild_building h]

/-- FINALIZE in a build begun in the Idle state `s` gives `s` back, with the packet handed out. -/
theorem runCalls_finalize {s : State} (w : PacketWord) (h : s.phase = .idle) :
    runCalls [.finalize] (s.withPhase (.building w)) = .next (replyPacket (packetOfWord w) s) := by
  have hfinish : exec .finalize (s.withPhase (.building w)) =
      .next (((s.withPhase (.building w)).withPhase .idle).addReply (.packet (packetOfWord w))) :=
    (exec_finalize _).trans (finishBuild_building rfl)
  have hidle : (s.withPhase (.building w)).withPhase .idle = s := withPhase_eq_self h
  rw [runCalls_cons_next _ hfinish, hidle]
  rfl

/-- A build with two setters is, in every state, the operation that returns the packet of the two writes: in
Idle both hand out that packet, in a build both are refused. -/
theorem runCalls_build_two {i j : Instr} {f g : Field} {m n : Nat} {u : BitVec m} {v : BitVec n}
    (hi : ∀ s, exec i s = setField f u s) (hj : ∀ s, exec j s = setField g v s) (s : State) :
    runCalls [.new, i, j, .finalize] s =
      withBuiltPacket (fieldWrite g v (fieldWrite f u newBuffer)) replyPacket s := by
  cases hs : s.phase with
  | idle =>
    rw [runCalls_new _ hs, runCalls_setter _ hi, runCalls_setter _ hj, runCalls_finalize _ hs,
      withBuiltPacket_idle _ _ hs]
  | building pkt => rw [runCalls_new_building _ hs, withBuiltPacket_building _ _ hs]

/-! ## ENC_LDAC_CTRL and ENC_REF_CTRL -/

theorem packetOfWord_buildLdac (l : LdacMode) :
    packetOfWord (buildLdac l) = ⟨0x30, 0x00, l.code.setWidth 8⟩ := by cases l <;> decide

theorem packetOfWord_buildRef (e : Ref) :
    packetOfWord (buildRef e) = ⟨0x38, 0x00, e.code.setWidth 8⟩ := by cases e <;> decide

/-- Settles O33: ENC_LDAC_CTRL is the build of its two setters, whose buffer has the rule's bytes; the corner
cases are the bytes at the codes 0 and 3. -/
theorem encLdacCtrlReturnsItsBytes : Obligations.EncLdacCtrlReturnsItsBytes := by
  have hbytes (l : LdacMode) : Encodes (.ldacCtrl l) fun _ => ⟨0x30, 0x00, l.code.setWidth 8⟩ :=
    encodes_of_exec (exec_ldacCtrl l) (packetOfWord_buildLdac l)
  refine ⟨hbytes, fun l s => ?_, hbytes .ldacAll, hbytes .ldacNone⟩
  exact (runCalls_build_two (exec_setCmd .ldacCtrl) (exec_setLdacMode l) s).trans (exec_ldacCtrl l s).symm

/-- Settles O34: ENC_REF_CTRL is the build of its two setters, whose buffer has the rule's bytes; the example
is the bytes at the code 1. -/
theorem encRefCtrlReturnsItsBytes : Obligations.EncRefCtrlReturnsItsBytes := by
  have hbytes (e : Ref) : Encodes (.refCtrl e) fun _ => ⟨0x38, 0x00, e.code.setWidth 8⟩ :=
    encodes_of_exec (exec_refCtrl e) (packetOfWord_buildRef e)
  refine ⟨hbytes, fun e s => ?_, hbytes .enable⟩
  exact (runCalls_build_two (exec_setCmd .refCtrl) (exec_setRef e) s).trans (exec_refCtrl e s).symm

end Sys2Proof.Machine
end

section
/-! One framed transaction (R163): the release (R164), a failed byte (R165), and latch (R171). -/

namespace Sys2Proof.Machine

/-! ## The sending, by its draws -/

@[simp] theorem sendBytes_pinDraw (bs : List Byte) (s : State) (k : Nat) :
    (sendBytes bs s).2.pinDraw k = s.pinDraw k := by
  obtain ⟨n, evs, hs, -, -⟩ := sendBytes_spec bs s
  rw [hs]
  rfl

theorem sendBytes_cons_ok {s : State} (b : Byte) (bs : List Byte) (h : s.sendDraw 0 = .ok) :
    sendBytes (b :: bs) s = sendBytes bs (s.afterSend b) := by simp only [sendBytes, h]

theorem sendBytes_cons_err {s : State} {t : TxError} (b : Byte) (bs : List Byte)
    (h : s.sendDraw 0 = .err t) : sendBytes (b :: bs) s = (some (.tx t), s.afterSend b) := by
  simp only [sendBytes, h]

/-- Bytes whose draws are Ok go out, and the sending goes on with the bytes after them. -/
theorem sendBytes_append (bs cs : List Byte) (s : State) (h : ∀ k < bs.length, s.sendDraw k = .ok) :
    ∃ t : State, sendBytes (bs ++ cs) s = sendBytes cs t ∧
      t.wire = s.wire ++ bs.map (fun b => .send b .ok) ∧
      ∀ k, t.sendDraw k = s.sendDraw (bs.length + k) := by
  induction bs generalizing s with
  | nil => exact ⟨s, rfl, by simp, by simp⟩
  | cons b bs ih =>
    have h0 : s.sendDraw 0 = .ok := h 0 (by simp)
    obtain ⟨t, ht, hwire, hdraw⟩ := ih (s.afterSend b) fun k hk => by
      simpa using h (k + 1) (by simpa using hk)
    exact ⟨t, (sendBytes_cons_ok b _ h0).trans ht, by simp [hwire, h0],
      fun k => by simp [hdraw, Nat.add_right_comm]⟩

theorem sendBytes_ok (bs : List Byte) (s : State) (h : ∀ k < bs.length, s.sendDraw k = .ok) :
    (sendBytes bs s).1 = none ∧
      (sendBytes bs s).2.wire = s.wire ++ bs.map (fun b => .send b .ok) := by
  obtain ⟨t, ht, hwire, -⟩ := sendBytes_append bs [] s h
  rw [List.append_nil] at ht
  rw [ht]
  exact ⟨rfl, hwire⟩

/-- The first failure, at byte `k`, is the last attempt and the error of the sending. -/
theorem sendBytes_err {bs : List Byte} {s : State} {k : Nat} {t : TxError} (hk : k < bs.length)
    (hok : ∀ j < k, s.sendDraw j = .ok) (herr : s.sendDraw k = .err t) :
    (sendBytes bs s).1 = some (.tx t) ∧
      (sendBytes bs s).2.wire = s.wire ++ (bs.take k).map (fun b => .send b .ok)
        ++ (bs.drop k).head?.toList.map (fun b => .send b (.err t)) := by
  have hlen : (bs.take k).length = k := List.length_take_of_le hk.le
  obtain ⟨u, hu, hwire, hdraw⟩ := sendBytes_append (bs.take k) (bs.drop k) s (by rwa [hlen])
  have hu0 : u.sendDraw 0 = .err t := by simpa [hlen, herr] using hdraw 0
  rw [List.take_append_drop, List.drop_eq_getElem_cons hk, sendBytes_cons_err _ _ hu0] at hu
  simp [hu, hwire, hu0, hk]

/-- No byte is a release. -/
theorem sendBytes_releases_nothing (bs : List Byte) (s : State) :
    ∃ evs, (sendBytes bs s).2.wire = s.wire ++ evs ∧ evs.all (fun e => !isRelease e) = true := by
  obtain ⟨n, evs, hs, rfl, -⟩ := sendBytes_spec bs s
  refine ⟨_, by rw [hs], List.all_eq_true.2 fun e he => ?_⟩
  obtain ⟨k, hk, rfl⟩ := List.mem_mapIdx.1 he
  rfl

/-! ## The assertion -/

theorem assertAndSend_ok (p : Packet) {s : State} (h : s.pinDraw 0 = .ok) :
    assertAndSend p s = sendBytes (packetBytes p) (s.afterSetCs .low) := by simp only [assertAndSend, h]

theorem assertAndSend_err (p : Packet) {s : State} {e : PinError} {l : Level}
    (h : s.pinDraw 0 = .err e l) : assertAndSend p s = (some (.pin e), s.afterSetCs .low) := by
  simp only [assertAndSend, h]

/-- The assertion takes the one `SetCS` draw before the release's, whether or not it fails. -/
@[simp] theorem assertAndSend_pinDraw (p : Packet) (s : State) (k : Nat) :
    (assertAndSend p s).2.pinDraw k = s.pinDraw (k + 1) := by
  cases hd : s.pinDraw 0 with
  | ok => simp [assertAndSend_ok p hd]
  | err e l => simp [assertAndSend_err p hd]

/-- Nothing before the release is a release. -/
theorem assertAndSend_releases_nothing (p : Packet) (s : State) :
    ∃ evs, (assertAndSend p s).2.wire = s.wire ++ evs ∧ evs.all (fun e => !isRelease e) = true := by
  cases hd : s.pinDraw 0 with
  | ok =>
    obtain ⟨evs, hwire, hevs⟩ := sendBytes_releases_nothing (packetBytes p) (s.afterSetCs .low)
    exact ⟨.setCs .low .ok :: evs, by simp [assertAndSend_ok p hd, hwire, hd], by simpa [isRelease] using hevs⟩
  | err e l => exact ⟨[.setCs .low (.err e l)], by simp [assertAndSend_err p hd, hd], rfl⟩

/-! ## The release and the result -/

theorem runTxn_wire (p : Packet) (s : State) :
    (runTxn p s).wire = (assertAndSend p s).2.wire ++ [.setCs .high (s.pinDraw 1)] := by simp [runTxn]

theorem runTxn_replies_txnResult (p : Packet) (s : State) :
    (runTxn p s).replies = s.replies ++
      [.device (txnResult s.params.surfaceReleaseError (assertAndSend p s).1 (s.pinDraw 1))] := by
  simp [runTxn, assertAndSend_keeps]

/-- Where every call is Ok the frame is whole and the result Ok. -/
theorem runTxn_ok (p : Packet) {s : State} (hassert : s.pinDraw 0 = .ok)
    (hsend : ∀ k < 3, s.sendDraw k = .ok) (hrelease : s.pinDraw 1 = .ok) :
    (runTxn p s).wire = s.wire ++ [.setCs .low .ok, .send p.b0 .ok, .send p.b1 .ok, .send p.b2 .ok,
        .setCs .high .ok] ∧
      (runTxn p s).replies = s.replies ++ [.device .ok] := by
  obtain ⟨hnone, hwire⟩ := sendBytes_ok (packetBytes p) (s.afterSetCs .low) hsend
  rw [runTxn_wire, runTxn_replies_txnResult, assertAndSend_ok p hassert, hnone, hwire, hrelease]
  exact ⟨by simp [hassert, packetBytes], rfl⟩

/-- Settles O44: the release is TXN's last call, and what stands before it is the assertion and bytes. -/
theorem txnReleasesExactlyOnce : Obligations.TxnReleasesExactlyOnce := by
  intro p s
  obtain ⟨evs, hwire, hevs⟩ := assertAndSend_releases_nothing p s
  exact ⟨evs, by rw [runTxn_wire, hwire], hevs⟩

/-- Settles O45: the sending ends at its first failure, and that error is the result, however the release
goes (R195). -/
theorem failedSendEndsTheSending : Obligations.FailedSendEndsTheSending := by
  intro p s k t hk hassert hok herr
  obtain ⟨hfail, hwire⟩ := sendBytes_err (bs := packetBytes p) (s := s.afterSetCs .low) hk hok herr
  rw [runTxn_wire, runTxn_replies_txnResult, assertAndSend_ok p hassert, hfail, hwire, afterSetCs_wire,
    hassert]
  exact ⟨rfl, rfl⟩

/-! ## latch -/

theorem exec_swLatch (s : State) : exec .swLatch s = withBuiltPacket buildSwLatch replyPacket s := rfl
theorem exec_devLatch (s : State) : exec .devLatch s = withBuiltPacket buildSwLatch runTxn s := rfl

/-- An instruction that frames the packet of `w` is, in Idle, TXN of that packet's bytes. -/
theorem deviceOpFrames_of_exec {i : Instr} {w : PacketWord} {p : Packet}
    (hi : ∀ s, exec i s = withBuiltPacket w runTxn s) (hw : packetOfWord w = p) : DeviceOpFrames i p := by
  intro s hs
  rw [hi, withBuiltPacket_idle w runTxn hs, hw]

theorem packetOfWord_buildSwLatch : packetOfWord buildSwLatch = ⟨0x0F, 0x00, 0x00⟩ := by decide

/-- Settles O42: latch and ENC_SW_LATCH build the same word, whose bytes latch frames. -/
theorem latchFramesSwLatchPacket : Obligations.LatchFramesSwLatchPacket := by
  have hframes : DeviceOpFrames .devLatch ⟨0x0F, 0x00, 0x00⟩ :=
    deviceOpFrames_of_exec exec_devLatch packetOfWord_buildSwLatch
  have hencodes : Encodes .swLatch fun _ => ⟨0x0F, 0x00, 0x00⟩ :=
    encodes_of_exec exec_swLatch packetOfWord_buildSwLatch
  refine ⟨hframes, fun s hs => ⟨_, hencodes s hs, hframes s hs⟩, fun s hs hassert h0 h1 h2 hrelease => ?_⟩
  have hsend : ∀ k < 3, s.sendDraw k = .ok
    | 0, _ => h0
    | 1, _ => h1
    | 2, _ => h2
  exact ⟨_, hframes s hs, runTxn_ok _ hassert hsend hrelease⟩

end Sys2Proof.Machine
end

section
/-! The operand codes read back, and packet words cut into the bit fields of their table row (30_encoding.md
sections 2 and 3). -/

namespace Sys2Proof

/-! ## Codes -/

/-- A list of all enumerators in which each is found at its own code reads every code back. -/
theorem findCode_eq_some {α : Type} {n : Nat} {all : List α} {code : α → BitVec n}
    (hall : ∀ x, findCode all code (code x) = some x) {c : BitVec n} {x : α} :
    findCode all code c = some x ↔ code x = c := by
  refine ⟨fun h => ?_, fun h => h ▸ hall x⟩
  simpa using List.find?_some h

@[simp] theorem Op.ofCode_eq_some {c : BitVec 3} {op : Op} : Op.ofCode c = some op ↔ op.code = c :=
  findCode_eq_some fun op => by cases op <;> rfl

@[simp] theorem Addr.ofCode_eq_some {c : BitVec 3} {adr : Addr} : Addr.ofCode c = some adr ↔ adr.code = c :=
  findCode_eq_some fun adr => by cases adr <;> rfl

@[simp] theorem Channel.ofCode_eq_some {c : BitVec 3} {ch : Channel} :
    Channel.ofCode c = some ch ↔ ch.code = c :=
  findCode_eq_some fun ch => by cases ch <;> rfl

@[simp] theorem PowerMode.ofCode_eq_some {c : BitVec 2} {m : PowerMode} :
    PowerMode.ofCode c = some m ↔ m.code = c :=
  findCode_eq_some fun m => by cases m <;> rfl

@[simp] theorem PowerSel.ofCode_eq_some {c : BitVec 2} {sel : PowerSel} :
    PowerSel.ofCode c = some sel ↔ sel.code = c :=
  findCode_eq_some fun sel => by cases sel <;> rfl

@[simp] theorem ResetMode.ofCode_eq_some {c : BitVec 1} {r : ResetMode} :
    ResetMode.ofCode c = some r ↔ r.code = c :=
  findCode_eq_some fun r => by cases r <;> rfl

@[simp] theorem LdacMode.ofCode_eq_some {c : BitVec 2} {l : LdacMode} :
    LdacMode.ofCode c = some l ↔ l.code = c :=
  findCode_eq_some fun l => by cases l <;> rfl

@[simp] theorem Ref.ofCode_eq_some {c : BitVec 1} {e : Ref} : Ref.ofCode c = some e ↔ e.code = c :=
  findCode_eq_some fun e => by cases e <;> rfl

/-- GAIN_CODE is a bijection onto the 2-bit codes under every assignment (R72). -/
@[simp] theorem gainOfCode_eq {t : GainAssignment} {c : BitVec 2} {g : GainMode} :
    gainOfCode t c = g ↔ gainCode t g = c := by
  revert c
  cases t <;> cases g <;> decide

/-! ## Words cut into fields -/

/-- Bits that a mask keeps whole are those of the masked word. -/
theorem extract_of_and_eq {w m p : PacketWord} (h : w &&& m = p) (lo len : Nat)
    (hm : m.extractLsb' lo len = BitVec.allOnes len) : w.extractLsb' lo len = p.extractLsb' lo len := by
  rw [← h, BitVec.extractLsb'_and, hm, BitVec.and_allOnes]

/-- A word is `hi ++ lo` exactly if its high part is `hi` and its low part `lo`. -/
theorem append_eq_iff {m n : Nat} (hi : BitVec m) (lo : BitVec n) {w : BitVec (m + n)} :
    hi ++ lo = w ↔ hi = w.extractLsb' n m ∧ lo = w.extractLsb' 0 n := by
  constructor
  · rintro rfl
    exact ⟨BitVec.extractLsb'_append_eq_left.symm, BitVec.extractLsb'_append_eq_right.symm⟩
  · rintro ⟨rfl, rfl⟩
    rw [BitVec.extractLsb'_append_extractLsb'_eq_extractLsb' (by omega), BitVec.extractLsb'_eq_self]

/-- A field of a part of a word is a field of the word. -/
theorem extract_extract {n : Nat} (w : BitVec n) {lo lo' len len' : Nat} (h : lo' + len' ≤ len) :
    (w.extractLsb' lo len).extractLsb' lo' len' = w.extractLsb' (lo + lo') len' := by
  refine BitVec.eq_of_getLsbD_eq fun k hk => ?_
  have hlen : lo' + k < len := by omega
  simp only [BitVec.getLsbD_extractLsb', hk, hlen, decide_true, Bool.true_and, Nat.add_assoc]

/-- The data form of a packet (R61, R65). -/
theorem dataForm_iff {w : PacketWord} {c : BitVec 5} {a : BitVec 3} {v : Half} :
    c ++ a ++ v = w ↔ c = w.extractLsb' 19 5 ∧ a = addrBits w ∧ v = dataBits w := by
  rw [append_eq_iff (c ++ a) v, append_eq_iff c a, extract_extract w (by decide),
    extract_extract w (by decide), and_assoc]
  rfl

/-- The four parts of a packet word (R61). -/
theorem wordForm_iff {w : PacketWord} {r : BitVec 2} {c a : BitVec 3} {v : Half} :
    r ++ c ++ a ++ v = w ↔ r = w.extractLsb' 22 2 ∧ c = cmdBits w ∧ a = addrBits w ∧ v = dataBits w := by
  rw [dataForm_iff, append_eq_iff r c, extract_extract w (by decide), extract_extract w (by decide), and_assoc]
  rfl

/-- The form of the rows with one 2-bit operand (R66). -/
theorem lowForm_iff {w : PacketWord} {c : BitVec 22} {x : BitVec 2} :
    c ++ x = w ↔ c = w.extractLsb' 2 22 ∧ x = lowBits w := append_eq_iff c x

/-- The form of the rows with one 1-bit operand (R66). -/
theorem bitForm_iff {w : PacketWord} {c : BitVec 23} {x : BitVec 1} :
    c ++ x = w ↔ c = w.extractLsb' 1 23 ∧ x = lowBit w := append_eq_iff c x

/-- The form of the power rows (R66). -/
theorem powerForm_iff {w : PacketWord} {c : BitVec 18} {m z x : BitVec 2} :
    c ++ m ++ z ++ x = w ↔
      c = w.extractLsb' 6 18 ∧ m = modeBits w ∧ z = w.extractLsb' 2 2 ∧ x = lowBits w := by
  rw [append_eq_iff (c ++ m ++ z) x, append_eq_iff (c ++ m) z, append_eq_iff c m,
    extract_extract _ (by decide), extract_extract _ (by decide), extract_extract _ (by decide),
    extract_extract _ (by decide), extract_extract _ (by decide), and_assoc, and_assoc]
  rfl

/-- A packet and its word determine each other (R10). -/
theorem wordOfPacket_eq_iff {p : Packet} {w : PacketWord} : wordOfPacket p = w ↔ p = packetOfWord w := by
  rw [wordOfPacket, append_eq_iff (p.b0 ++ p.b1) p.b2, append_eq_iff p.b0 p.b1, extract_extract w (by decide),
    extract_extract w (by decide), and_assoc, packetOfWord, Packet.mk.injEq]

@[simp] theorem wordOfPacket_packetOfWord (w : PacketWord) : wordOfPacket (packetOfWord w) = w :=
  wordOfPacket_eq_iff.2 rfl

@[simp] theorem packetOfWord_wordOfPacket (p : Packet) : packetOfWord (wordOfPacket p) = p :=
  (wordOfPacket_eq_iff.1 rfl).symm

end Sys2Proof
end

section
/-! The decoder (30_encoding.md sections 3 and 4): rows, packets, and the classes of rejected words. -/

namespace Sys2Proof

open Machine (isEncodeOp)

/-! ## One row -/

/-- The encoded word holds its row's fixed bits, whatever the instruction. -/
theorem encode_fixedBits (t : GainAssignment) (i : Instr) :
    encode t i &&& (rowOf i).mask = (rowOf i).pattern := by
  cases i with
  | writeN ch v => exact Laws.FixedBits.writeN ch v t
  | writeGain g => exact Laws.FixedBits.writeGain g t
  | swLatch => exact Laws.FixedBits.swLatch t
  | wuAll ch v => exact Laws.FixedBits.wuAll ch v t
  | wuN ch v => exact Laws.FixedBits.wuN ch v t
  | power m sel => exact Laws.FixedBits.power m sel t
  | reset r => exact Laws.FixedBits.reset r t
  | ldacCtrl l => exact Laws.FixedBits.ldacCtrl l t
  | refCtrl e => exact Laws.FixedBits.refCtrl e t
  | new => exact Laws.FixedBits.new t
  | setCmd op => exact Laws.FixedBits.setCmd op t
  | setAddr adr => exact Laws.FixedBits.setAddr adr t
  | setData v => exact Laws.FixedBits.setData v t
  | setGain g => exact Laws.FixedBits.setGain g t
  | setPdMode m => exact Laws.FixedBits.setPdMode m t
  | setPdSel sel => exact Laws.FixedBits.setPdSel sel t
  | setRstMode r => exact Laws.FixedBits.setRstMode r t
  | setLdacMode l => exact Laws.FixedBits.setLdacMode l t
  | setRef e => exact Laws.FixedBits.setRef e t
  | finalize => exact Laws.FixedBits.finalize t
  | devInit => exact Laws.FixedBits.devInit t
  | devSetPower m sel => exact Laws.FixedBits.devSetPower m sel t
  | devWrite v ch => exact Laws.FixedBits.devWrite v ch t
  | devLatch => exact Laws.FixedBits.devLatch t

/-- A row reads an instruction exactly if its fixed bits match and the operand codes have enumerators. -/
theorem decodeRow_eq_instr {t : GainAssignment} {r : Row} {w : PacketWord} {i : Instr} :
    decodeRow t r w = .instr i ↔ w &&& r.mask = r.pattern ∧ r.read t w = some i := by
  by_cases hm : w &&& r.mask = r.pattern
  · cases hr : r.read t w <;> simp [decodeRow, hm, hr]
  · simp [decodeRow, hm]

/-- The middle one of three parts of a word. -/
theorem extract_middle {l m n : Nat} (hi : BitVec l) (mid : BitVec m) (lo : BitVec n) :
    (hi ++ mid ++ lo).extractLsb' n m = mid := by
  rw [BitVec.extractLsb'_append_eq_of_le (Nat.le_refl n), Nat.sub_self, BitVec.extractLsb'_append_eq_right]

theorem addrBits_append (c : BitVec 5) (a : BitVec 3) (v : Half) : addrBits (c ++ a ++ v) = a :=
  extract_middle c a v

theorem dataBits_append (c : BitVec 8) (v : Half) : dataBits (c ++ v) = v :=
  BitVec.extractLsb'_append_eq_right

theorem cmdBits_append (c : BitVec 2) (x : BitVec 3) (z : BitVec 19) : cmdBits (c ++ x ++ z) = x :=
  extract_middle c x z

theorem modeBits_append (c : BitVec 18) (m : BitVec 2) (z : BitVec 4) : modeBits (c ++ m ++ z) = m :=
  extract_middle c m z

theorem lowBits_append (c : BitVec 22) (x : BitVec 2) : lowBits (c ++ x) = x :=
  BitVec.extractLsb'_append_eq_right

theorem lowBit_append (c : BitVec 23) (x : BitVec 1) : lowBit (c ++ x) = x :=
  BitVec.extractLsb'_append_eq_right

theorem powerForm_bits (c : BitVec 18) (m z x : BitVec 2) :
    modeBits (c ++ m ++ z ++ x) = m ∧ lowBits (c ++ m ++ z ++ x) = x := by
  obtain ⟨-, hm, -, hx⟩ := powerForm_iff.1 (rfl : c ++ m ++ z ++ x = c ++ m ++ z ++ x)
  exact ⟨hm.symm, hx.symm⟩

/-- Every row reads back the operands that `encode` placed. -/
theorem read_encode (t : GainAssignment) (i : Instr) : (rowOf i).read t (encode t i) = some i := by
  cases i with
  | writeN ch v | wuAll ch v | wuN ch v | devWrite v ch =>
    simp [rowOf, Row.read, encode, addrBits_append, dataBits_append]
  | setAddr adr => simp [rowOf, Row.read, encode, addrBits_append]
  | setData v => simp [rowOf, Row.read, encode, dataBits_append]
  | setCmd op => simp [rowOf, Row.read, encode, cmdBits_append]
  | setPdMode m => simp [rowOf, Row.read, encode, modeBits_append]
  | power m sel | devSetPower m sel =>
    simp [rowOf, Row.read, encode, powerForm_bits, Option.bind_eq_some_iff]
  | writeGain g | ldacCtrl l | setGain g | setPdSel sel | setLdacMode l =>
    simp [rowOf, Row.read, encode, lowBits_append]
  | reset r | refCtrl e | setRstMode r | setRef e => simp [rowOf, Row.read, encode, lowBit_append]
  | swLatch | new | finalize | devInit | devLatch => rfl

/-- Settles O1: the encoded word has its row's fixed bits, and the row reads the operands back. -/
theorem decodeRowInvertsEncode : Obligations.DecodeRowInvertsEncode :=
  fun t i => decodeRow_eq_instr.2 ⟨encode_fixedBits t i, read_encode t i⟩

/-! ## The packet rows -/

theorem isEncodeOp_iff {i : Instr} : isEncodeOp i = true ↔ rowOf i ∈ packetRows := by
  cases i <;> simp [isEncodeOp, rowOf, packetRows]

/-- A packet row reads `i` from no word but its encoding: it fixes every bit beside the operands' fields. -/
theorem encode_of_decodeRow {t : GainAssignment} {r : Row} {w : PacketWord} {i : Instr} (hr : r ∈ packetRows)
    (h : decodeRow t r w = .instr i) : rowOf i = r ∧ encode t i = w := by
  obtain ⟨hm, hread⟩ := decodeRow_eq_instr.1 h
  have hfixed (lo len : Nat) (hones : r.mask.extractLsb' lo len = BitVec.allOnes len) :=
    (extract_of_and_eq hm lo len hones).symm
  cases r with
  | writeN | wuAll | wuN =>
    obtain ⟨ch, hch, rfl⟩ := Option.map_eq_some_iff.1 hread
    exact ⟨rfl, dataForm_iff.2 ⟨hfixed 19 5 rfl, Channel.ofCode_eq_some.1 hch, rfl⟩⟩
  | writeGain =>
    cases hread
    exact ⟨rfl, lowForm_iff.2 ⟨hfixed 2 22 rfl, gainOfCode_eq.1 rfl⟩⟩
  | swLatch =>
    cases hread
    exact ⟨rfl, (hfixed 0 24 rfl).trans BitVec.extractLsb'_eq_self⟩
  | power =>
    obtain ⟨m, hmode, hrest⟩ := Option.bind_eq_some_iff.1 hread
    obtain ⟨sel, hsel, rfl⟩ := Option.map_eq_some_iff.1 hrest
    exact ⟨rfl, powerForm_iff.2 ⟨hfixed 6 18 rfl, PowerMode.ofCode_eq_some.1 hmode, hfixed 2 2 rfl,
      PowerSel.ofCode_eq_some.1 hsel⟩⟩
  | reset =>
    obtain ⟨x, hx, rfl⟩ := Option.map_eq_some_iff.1 hread
    exact ⟨rfl, bitForm_iff.2 ⟨hfixed 1 23 rfl, ResetMode.ofCode_eq_some.1 hx⟩⟩
  | ldacCtrl =>
    obtain ⟨l, hl, rfl⟩ := Option.map_eq_some_iff.1 hread
    exact ⟨rfl, lowForm_iff.2 ⟨hfixed 2 22 rfl, LdacMode.ofCode_eq_some.1 hl⟩⟩
  | refCtrl =>
    obtain ⟨e, he, rfl⟩ := Option.map_eq_some_iff.1 hread
    exact ⟨rfl, bitForm_iff.2 ⟨hfixed 1 23 rfl, Ref.ofCode_eq_some.1 he⟩⟩
  | new | setCmd | setAddr | setData | setGain | setPdMode | setPdSel | setRstMode | setLdacMode | setRef
  | finalize | devInit | devSetPower | devWrite | devLatch => simp [packetRows] at hr

/-- What tells the packet rows apart: W[23:19], and whether W[18:16] is the address of the gain register. -/
def packetKey (w : PacketWord) : BitVec 5 × Bool := (w.extractLsb' 19 5, addrBits w == Addr.gain.code)

theorem packetKey_pattern_injOn :
    ∀ r1 ∈ packetRows, ∀ r2 ∈ packetRows, packetKey r1.pattern = packetKey r2.pattern → r1 = r2 := by
  decide

theorem channel_code_ne_gain (ch : Channel) : (ch.code == Addr.gain.code) = false := by cases ch <;> rfl

/-- The address of a word that a packet row reads: a data form's is any channel, the other rows fix it. -/
theorem addrBits_of_decodeRow {t : GainAssignment} {r : Row} {w : PacketWord} {i : Instr} (hr : r ∈ packetRows)
    (h : decodeRow t r w = .instr i) :
    ((∃ ch : Channel, ch.code = addrBits w) ∧ addrBits r.pattern = Channel.a.code) ∨
      addrBits w = addrBits r.pattern := by
  obtain ⟨hm, hread⟩ := decodeRow_eq_instr.1 h
  cases r with
  | writeN | wuAll | wuN =>
    obtain ⟨ch, hch, -⟩ := Option.map_eq_some_iff.1 hread
    exact .inl ⟨⟨ch, Channel.ofCode_eq_some.1 hch⟩, rfl⟩
  | writeGain | swLatch | power | reset | ldacCtrl | refCtrl => exact .inr (extract_of_and_eq hm 16 3 rfl)
  | new | setCmd | setAddr | setData | setGain | setPdMode | setPdSel | setRstMode | setLdacMode | setRef
  | finalize | devInit | devSetPower | devWrite | devLatch => simp [packetRows] at hr

/-- Every packet row fixes W[23:19]. -/
theorem packetRows_mask {r : Row} (hr : r ∈ packetRows) : r.mask.extractLsb' 19 5 = BitVec.allOnes 5 := by
  have hall : ∀ r ∈ packetRows, r.mask.extractLsb' 19 5 = BitVec.allOnes 5 := by decide
  exact hall r hr

/-- A word has the key of each packet row that reads it, for no channel is the address GAIN (R64). -/
theorem packetKey_of_decodeRow {t : GainAssignment} {r : Row} {w : PacketWord} {i : Instr} (hr : r ∈ packetRows)
    (h : decodeRow t r w = .instr i) : packetKey w = packetKey r.pattern := by
  rw [packetKey, packetKey, extract_of_and_eq (decodeRow_eq_instr.1 h).1 19 5 (packetRows_mask hr)]
  obtain ⟨⟨ch, hch⟩, hpattern⟩ | hfixed := addrBits_of_decodeRow hr h
  · rw [← hch, hpattern, channel_code_ne_gain, channel_code_ne_gain]
  · rw [hfixed]

/-- Settles O5: a word has the key of each packet row that reads it, and no two packet rows have one key. -/
theorem packetRowsAreDisjoint : Obligations.PacketRowsAreDisjoint := fun _ _ r1 hr1 r2 hr2 _ _ hi hj =>
  packetKey_pattern_injOn r1 hr1 r2 hr2
    ((packetKey_of_decodeRow hr1 hi).symm.trans (packetKey_of_decodeRow hr2 hj))

/-! ## All packet rows -/

/-- Rows tried in turn answer `i` exactly if one of them does, where no two of them read one word. -/
theorem decodeAmong_eq_instr {t : GainAssignment} {w : PacketWord} {rs : List Row} {i : Instr}
    (hone : ∀ r1 ∈ rs, ∀ r2 ∈ rs, ∀ i j, decodeRow t r1 w = .instr i → decodeRow t r2 w = .instr j → r1 = r2) :
    decodeAmong t w rs = .instr i ↔ ∃ r ∈ rs, decodeRow t r w = .instr i := by
  induction rs with
  | nil => simp [decodeAmong]
  | cons r rs ih =>
    have hrest := ih fun r1 h1 r2 h2 => hone r1 (.tail r h1) r2 (.tail r h2)
    cases hr : decodeRow t r w with
    | reject why => simp [decodeAmong, hr, hrest]
    | instr j =>
      simp only [decodeAmong, hr]
      refine ⟨fun h => ⟨r, .head rs, hr.trans h⟩, fun ⟨r', hr', h⟩ => ?_⟩
      cases hone r (.head rs) r' hr' j i hr h
      exact hr.symm.trans h

theorem decodeAmong_reject {t : GainAssignment} {w : PacketWord} {rs : List Row} {why : Reject}
    (h : decodeAmong t w rs = .reject why) : why = .builderOnly := by
  induction rs with
  | nil => cases h; rfl
  | cons r rs ih =>
    cases hr : decodeRow t r w with
    | instr i => simp [decodeAmong, hr] at h
    | reject why' => exact ih (by simpa [decodeAmong, hr] using h)

theorem decodeAmong_packetRows {t : GainAssignment} {w : PacketWord} {i : Instr} :
    decodeAmong t w packetRows = .instr i ↔ isEncodeOp i = true ∧ encode t i = w := by
  rw [decodeAmong_eq_instr (packetRowsAreDisjoint t w), isEncodeOp_iff]
  refine ⟨fun ⟨r, hr, h⟩ => ?_, fun ⟨hi, hw⟩ => ⟨rowOf i, hi, hw ▸ decodeRowInvertsEncode t i⟩⟩
  obtain ⟨rfl, hw⟩ := encode_of_decodeRow hr h
  exact ⟨hr, hw⟩

/-! ## The words of the table -/

/-- The addresses and the channels as lists of codes (R64). -/
theorem addressEnumerated_iff {w : PacketWord} :
    addressEnumerated w = true ↔ ∃ adr : Addr, adr.code = addrBits w := by
  change [0, 1, 2, 7].contains (addrBits w) = true ↔ _
  simp only [← Addr.ofCode_eq_some, ← Option.isSome_iff_exists]
  generalize addrBits w = c
  revert c
  decide

theorem addressIsChannel_iff {w : PacketWord} :
    addressIsChannel w = true ↔ ∃ ch : Channel, ch.code = addrBits w := by
  change [0, 1, 7].contains (addrBits w) = true ↔ _
  simp only [← Channel.ofCode_eq_some, ← Option.isSome_iff_exists]
  generalize addrBits w = c
  revert c
  decide

theorem Op.exists_code (c : BitVec 3) : ∃ op : Op, op.code = c := by
  simp only [← Op.ofCode_eq_some, ← Option.isSome_iff_exists]
  revert c
  decide

theorem PowerMode.exists_code (c : BitVec 2) : ∃ m : PowerMode, m.code = c := by
  simp only [← PowerMode.ofCode_eq_some, ← Option.isSome_iff_exists]
  revert c
  decide

/-- The code 0 alone has no selector (R68). -/
theorem PowerSel.exists_code_iff {c : BitVec 2} : (∃ sel : PowerSel, sel.code = c) ↔ c ≠ 0 := by
  simp only [← PowerSel.ofCode_eq_some, ← Option.isSome_iff_exists]
  revert c
  decide

theorem ResetMode.exists_code (c : BitVec 1) : ∃ r : ResetMode, r.code = c := by
  simp only [← ResetMode.ofCode_eq_some, ← Option.isSome_iff_exists]
  revert c
  decide

theorem LdacMode.exists_code (c : BitVec 2) : ∃ l : LdacMode, l.code = c := by
  simp only [← LdacMode.ofCode_eq_some, ← Option.isSome_iff_exists]
  revert c
  decide

theorem Ref.exists_code (c : BitVec 1) : ∃ e : Ref, e.code = c := by
  simp only [← Ref.ofCode_eq_some, ← Option.isSome_iff_exists]
  revert c
  decide

/-- The builder set (R74). -/
theorem isBuilderWord_iff {w : PacketWord} :
    isBuilderWord w = true ↔ w.extractLsb' 22 2 = 0 ∧ ∃ adr : Addr, adr.code = addrBits w := by
  rw [← addressEnumerated_iff, isBuilderWord, Bool.and_eq_true, reservedClear, beq_iff_eq]

theorem packetRows_pattern {r : Row} (hr : r ∈ packetRows) :
    r.pattern.extractLsb' 22 2 = 0 ∧ ∃ adr : Addr, adr.code = addrBits r.pattern := by
  have hall : ∀ r ∈ packetRows, isBuilderWord r.pattern = true := by decide
  exact isBuilderWord_iff.1 (hall r hr)

/-- The encode operations' words are in the builder set (R74). -/
theorem isBuilderWord_encode (t : GainAssignment) {i : Instr} (hi : isEncodeOp i = true) :
    isBuilderWord (encode t i) = true := by
  have hr := isEncodeOp_iff.1 hi
  obtain ⟨hres, adr, hadr⟩ := packetRows_pattern hr
  have hmask : (rowOf i).mask.extractLsb' 22 2 = BitVec.allOnes 2 := by
    rw [← extract_extract (lo := 19) (lo' := 3) (len := 5) _ (by decide), packetRows_mask hr]
    rfl
  refine isBuilderWord_iff.2 ⟨(extract_of_and_eq (encode_fixedBits t i) 22 2 hmask).trans hres, ?_⟩
  obtain ⟨⟨ch, hch⟩, -⟩ | hfixed := addrBits_of_decodeRow hr (decodeRowInvertsEncode t i)
  · exact ⟨ch.addr, hch⟩
  · exact ⟨adr, hadr.trans hfixed.symm⟩

/-- The table of R73 holds exactly the encodings of the encode operations. -/
theorem isEncodeWord_iff (t : GainAssignment) {w : PacketWord} :
    isEncodeWord w = true ↔ ∃ i, isEncodeOp i = true ∧ encode t i = w := by
  constructor
  · intro h
    simp only [isEncodeWord, Bool.or_eq_true, Bool.and_eq_true, beq_iff_eq, bne_iff_ne, or_assoc,
      and_assoc] at h
    obtain ⟨hc, ha⟩ | hc | rfl | ⟨hc, ha⟩ | ⟨hc, ha⟩ | ⟨hc, hz, hs⟩ | hc | hc | hc := h
    · obtain ⟨ch, hch⟩ := addressIsChannel_iff.1 ha
      exact ⟨.writeN ch (dataBits w), rfl, dataForm_iff.2 ⟨hc.symm, hch, rfl⟩⟩
    · exact ⟨.writeGain (gainOfCode t (lowBits w)), rfl, lowForm_iff.2 ⟨hc.symm, gainOfCode_eq.1 rfl⟩⟩
    · exact ⟨.swLatch, rfl, rfl⟩
    · obtain ⟨ch, hch⟩ := addressIsChannel_iff.1 ha
      exact ⟨.wuAll ch (dataBits w), rfl, dataForm_iff.2 ⟨hc.symm, hch, rfl⟩⟩
    · obtain ⟨ch, hch⟩ := addressIsChannel_iff.1 ha
      exact ⟨.wuN ch (dataBits w), rfl, dataForm_iff.2 ⟨hc.symm, hch, rfl⟩⟩
    · obtain ⟨m, hm⟩ := PowerMode.exists_code (modeBits w)
      obtain ⟨sel, hsel⟩ := PowerSel.exists_code_iff.2 hs
      exact ⟨.power m sel, rfl, powerForm_iff.2 ⟨hc.symm, hm, hz.symm, hsel⟩⟩
    · obtain ⟨r, hr⟩ := ResetMode.exists_code (lowBit w)
      exact ⟨.reset r, rfl, bitForm_iff.2 ⟨hc.symm, hr⟩⟩
    · obtain ⟨l, hl⟩ := LdacMode.exists_code (lowBits w)
      exact ⟨.ldacCtrl l, rfl, lowForm_iff.2 ⟨hc.symm, hl⟩⟩
    · obtain ⟨e, he⟩ := Ref.exists_code (lowBit w)
      exact ⟨.refCtrl e, rfl, bitForm_iff.2 ⟨hc.symm, he⟩⟩
  · rintro ⟨i, hi, hw⟩
    cases i with
    | writeN ch v | wuAll ch v | wuN ch v =>
      obtain ⟨hc, ha, -⟩ := dataForm_iff.1 hw
      simp [isEncodeWord, ← hc, addressIsChannel_iff.2 ⟨ch, ha⟩]
    | writeGain | ldacCtrl =>
      obtain ⟨hc, -⟩ := lowForm_iff.1 hw
      simp [isEncodeWord, ← hc]
    | reset | refCtrl =>
      obtain ⟨hc, -⟩ := bitForm_iff.1 hw
      simp [isEncodeWord, ← hc]
    | power m sel =>
      obtain ⟨hc, -, hz, hs⟩ := powerForm_iff.1 hw
      have hsel : ¬w.extractLsb' 0 2 = 0#2 := PowerSel.exists_code_iff.1 ⟨sel, hs⟩
      simp [isEncodeWord, ← hc, ← hz, hsel]
    | swLatch => simp [isEncodeWord, ← hw, encode]
    | new | setCmd | setAddr | setData | setGain | setPdMode | setPdSel | setRstMode | setLdacMode | setRef
    | finalize | devInit | devSetPower | devWrite | devLatch => cases hi

/-! ## The packet decoder -/

theorem decodePacket_of_isBuilderWord (t : GainAssignment) {w : PacketWord} (h : isBuilderWord w = true) :
    decodePacket t w = decodeAmong t w packetRows := by
  obtain ⟨hres, haddr⟩ : reservedClear w = true ∧ addressEnumerated w = true := by
    simpa [isBuilderWord] using h
  simp [decodePacket, hres, haddr]

theorem isBuilderWord_of_decodePacket {t : GainAssignment} {w : PacketWord} {i : Instr}
    (h : decodePacket t w = .instr i) : isBuilderWord w = true := by
  cases hres : reservedClear w with
  | false => simp [decodePacket, hres] at h
  | true =>
    cases haddr : addressEnumerated w with
    | false => simp [decodePacket, hres, haddr] at h
    | true => simp [isBuilderWord, hres, haddr]

/-- Settles O2: on the builder set the decoder tries the packet rows, which read exactly their encodings. -/
theorem decodePacketInvertsEncode : Obligations.DecodePacketInvertsEncode := by
  intro t w i
  constructor
  · intro h
    rwa [decodePacket_of_isBuilderWord t (isBuilderWord_of_decodePacket h), decodeAmong_packetRows] at h
  · rintro ⟨hi, rfl⟩
    rw [decodePacket_of_isBuilderWord t (isBuilderWord_encode t hi)]
    exact decodeAmong_packetRows.2 ⟨hi, rfl⟩

/-- Settles O3: both sides say that the word is the encoding of some encode operation. -/
theorem decoderAcceptsExactlyEncodeWords : Obligations.DecoderAcceptsExactlyEncodeWords := fun t w =>
  (exists_congr (decodePacketInvertsEncode t w)).trans (isEncodeWord_iff t).symm

/-- Settles O4: the first two classes are the decoder's own tests; the third is what the packet rows leave. -/
theorem decoderNamesRejectedClass : Obligations.DecoderNamesRejectedClass := by
  intro t w
  refine ⟨fun hres => ?_, fun hres haddr => ?_, fun hbuilder hencode => ?_⟩
  · have hres' : reservedClear w = false := beq_eq_false_iff_ne.2 hres
    rw [decodePacket, if_pos hres']
  · have haddr' : addressEnumerated w = false := by
      have hall : ∀ c ∈ [(3 : BitVec 3), 4, 5, 6], [0, 1, 2, 7].contains c = false := by decide
      exact hall _ haddr
    simp [decodePacket, reservedClear, hres, haddr']
  · cases hd : decodePacket t w with
    | instr i =>
      have hw := (decoderAcceptsExactlyEncodeWords t w).1 ⟨i, hd⟩
      rw [hencode] at hw
      cases hw
    | reject why =>
      rw [decodePacket_of_isBuilderWord t hbuilder] at hd
      rw [decodeAmong_reject hd]

/-! ## Bytes, codes and GAIN_CODE -/

/-- Settles O6: the decoder on bytes looks at lists of three alone. -/
theorem onlyThreeBytesDecode : Obligations.OnlyThreeBytesDecode := by
  intro t bs hlen
  match bs, hlen with
  | [], _ | [_], _ | [_, _], _ | _ :: _ :: _ :: _ :: _, _ => rfl
  | [_, _, _], hlen => exact absurd rfl hlen

/-- Settles O7: the nine packets are decoded under each assignment. -/
theorem writtenPacketsDecode : Obligations.WrittenPacketsDecode := by
  intro t
  cases t <;> decide

/-- Settles O8: each code is looked up in its definition. -/
theorem operandCodesAreTheTables : Obligations.OperandCodesAreTheTables := by
  unfold Obligations.OperandCodesAreTheTables
  decide

/-- Three different codes beside 1 are those of one of the six assignments (R72). -/
theorem exists_gainAssignment {x y z : BitVec 2} (hx : x ≠ 1) (hy : y ≠ 1) (hz : z ≠ 1) (hxy : x ≠ y)
    (hxz : x ≠ z) (hyz : y ≠ z) : ∃ t : GainAssignment, t.a1b1 = x ∧ t.a2b1 = y ∧ t.a2b2 = z := by
  have hall : ∀ x y z : BitVec 2, x ≠ 1 → y ≠ 1 → z ≠ 1 → x ≠ y → x ≠ z → y ≠ z →
      ∃ t ∈ [GainAssignment.c023, .c032, .c203, .c230, .c302, .c320], t.a1b1 = x ∧ t.a2b1 = y ∧ t.a2b2 = z := by
    decide
  obtain ⟨t, -, ht⟩ := hall x y z hx hy hz hxy hxz hyz
  exact ⟨t, ht⟩

theorem gainCode_injective (t : GainAssignment) : Function.Injective (gainCode t) := fun _ _ h =>
  (gainOfCode_eq.2 h).symm.trans (gainOfCode_eq.2 rfl)

/-- Settles O9: a code is injective because it can be read back, and an injective one with A1B2 at 1 gives the
other three modes different codes beside 1. -/
theorem gainCodeRangesOverAllInjections : Obligations.GainCodeRangesOverAllInjections := by
  intro f
  constructor
  · rintro ⟨t, rfl⟩
    exact ⟨gainCode_injective t, rfl⟩
  · rintro ⟨hinj, hone⟩
    have hne {g g' : GainMode} (h : g ≠ g') : f g ≠ f g' := hinj.ne h
    obtain ⟨t, h11, h21, h22⟩ := exists_gainAssignment (x := f .a1b1) (y := f .a2b1) (z := f .a2b2)
      (hone ▸ hne (by decide)) (hone ▸ hne (by decide)) (hone ▸ hne (by decide)) (hne (by decide))
      (hne (by decide)) (hne (by decide))
    refine ⟨t, funext fun g => ?_⟩
    cases g with
    | a1b1 => exact h11
    | a1b2 => exact hone.symm
    | a2b1 => exact h21
    | a2b2 => exact h22

end Sys2Proof
end

section
/-! Two masked field writes (40_builder_ops.md R100, R114 to R116), and the setters of the B2 subfields (R107 to
R112). -/

namespace Sys2Proof.Machine

/-! ## FieldWrite and its masks -/

/-- Settles O10: the two cases of a masked write. -/
theorem fieldWriteIsExact : Obligations.FieldWriteIsExact := by
  intro f n v pkt k hk
  split
  · next hf => exact fieldWrite_bit_inside f v pkt hk hf
  · next hf => exact fieldWrite_bit_outside f v pkt (by omega)

/-- A bit of a field is in no field of a disjoint mask. -/
theorem not_mem_of_disjoint {f g : Field} (h : fieldMask f &&& fieldMask g = 0) {k : Nat} (hk : k < 24)
    (hf : fieldShift f ≤ k ∧ k < fieldShift f + fieldWidth f) :
    ¬(fieldShift g ≤ k ∧ k < fieldShift g + fieldWidth g) := by
  have hbit := congrArg (fun m => BitVec.getLsbD m k) h
  simpa [-BitVec.getLsbD_eq_getElem, fieldMask_bit f hk, fieldMask_bit g hk, hf] using hbit

/-- A bit of a field is in every field whose mask contains the field's. -/
theorem mem_of_covered {f g : Field} (h : fieldMask f &&& ~~~(fieldMask g) = 0) {k : Nat} (hk : k < 24)
    (hf : fieldShift f ≤ k ∧ k < fieldShift f + fieldWidth f) :
    fieldShift g ≤ k ∧ k < fieldShift g + fieldWidth g := by
  have hbit := congrArg (fun m => BitVec.getLsbD m k) h
  simpa [-BitVec.getLsbD_eq_getElem, fieldMask_bit f hk, fieldMask_bit g hk, hf, hk] using hbit

/-- The later of two writes wins where its field contains the earlier one's (R114, R116). -/
theorem fieldWrite_covered {f g : Field} (h : fieldMask f &&& ~~~(fieldMask g) = 0) {m n : Nat} (u : BitVec m)
    (v : BitVec n) (w : PacketWord) : fieldWrite g v (fieldWrite f u w) = fieldWrite g v w := by
  refine BitVec.eq_of_getLsbD_eq fun k hk => ?_
  rw [fieldWriteIsExact g n v _ k hk, fieldWriteIsExact g n v _ k hk, fieldWriteIsExact f m u _ k hk]
  by_cases hf : fieldShift f ≤ k ∧ k < fieldShift f + fieldWidth f
  · rw [if_pos (mem_of_covered h hk hf), if_pos (mem_of_covered h hk hf)]
  · rw [if_neg hf]

/-- Writes of disjoint fields commute (R115). -/
theorem fieldWrite_comm {f g : Field} (h : fieldMask f &&& fieldMask g = 0) {m n : Nat} (u : BitVec m)
    (v : BitVec n) (w : PacketWord) :
    fieldWrite g v (fieldWrite f u w) = fieldWrite f u (fieldWrite g v w) := by
  refine BitVec.eq_of_getLsbD_eq fun k hk => ?_
  simp only [fieldWriteIsExact g n v _ k hk, fieldWriteIsExact f m u _ k hk]
  by_cases hf : fieldShift f ≤ k ∧ k < fieldShift f + fieldWidth f
  · rw [if_neg (not_mem_of_disjoint h hk hf), if_pos hf, if_pos hf]
  · rw [if_neg hf, if_neg hf]

/-- A write leaves every field of a disjoint mask. -/
theorem fieldWrite_extract_disjoint {f g : Field} (h : fieldMask g &&& fieldMask f = 0) {n : Nat} (v : BitVec n)
    (w : PacketWord) : (fieldWrite f v w).extractLsb' (fieldShift g) (fieldWidth g) =
      w.extractLsb' (fieldShift g) (fieldWidth g) := by
  refine BitVec.eq_of_getLsbD_eq fun k hk => ?_
  have hfit := fieldShift_add_fieldWidth_le g
  have hout := not_mem_of_disjoint h (k := fieldShift g + k) (by omega) (by omega)
  rw [BitVec.getLsbD_extractLsb', BitVec.getLsbD_extractLsb', fieldWrite_bit_outside f v w (by omega)]

/-! ## The setters of the B2 subfields -/

/-- Settles O15: the setter is the write of the field GAIN. -/
theorem setGainWritesGainCode : Obligations.SetGainWritesGainCode := fun _ =>
  ⟨setsField_of_exec .gain fun _ => rfl, fun _ => rfl⟩

/-- Settles O16: the setter is the write of the field PD_MODE. -/
theorem setPdModeWritesPdMode : Obligations.SetPdModeWritesPdMode := fun _ =>
  setsField_of_exec .pdMode fun _ => rfl

/-- Settles O17: the setter is the write of the field PD_SEL. -/
theorem setPdSelWritesPdSel : Obligations.SetPdSelWritesPdSel := fun _ =>
  setsField_of_exec .pdSel fun _ => rfl

/-- Settles O18: the setter is the write of the field RST_MODE. -/
theorem setRstModeWritesOneBit : Obligations.SetRstModeWritesOneBit := fun _ =>
  setsField_of_exec .rstMode fun _ => rfl

/-- Settles O19: the setter is the write of the field LDAC_MODE. -/
theorem setLdacModeWritesLdacMode : Obligations.SetLdacModeWritesLdacMode := fun l =>
  setsField_of_exec .ldacMode (exec_setLdacMode l)

/-- Settles O20: the setter is the write of the field REF. -/
theorem setRefWritesOneBit : Obligations.SetRefWritesOneBit := fun e =>
  setsField_of_exec .ref (exec_setRef e)

end Sys2Proof.Machine
end

section
/-! TXN as one update of the state, on each of its paths (42_device_operations.md R163 to R167). -/

namespace Sys2Proof.Machine

/-! ## Several `Send` calls as one update -/

/-- The state after `n` `Send` calls that put `evs` on the wire. -/
def State.afterSends (s : State) (evs : List WireEvent) (n : Nat) : State :=
  { s with wire := s.wire ++ evs, sendDraws := s.sendDraws.drop n, sendCalls := s.sendCalls + n }

section

variable (s : State) (evs : List WireEvent) (n : Nat)

@[simp] theorem afterSends_params : (s.afterSends evs n).params = s.params := rfl
@[simp] theorem afterSends_phase : (s.afterSends evs n).phase = s.phase := rfl
@[simp] theorem afterSends_cs : (s.afterSends evs n).cs = s.cs := rfl
@[simp] theorem afterSends_requests : (s.afterSends evs n).requests = s.requests := rfl
@[simp] theorem afterSends_replies : (s.afterSends evs n).replies = s.replies := rfl
@[simp] theorem afterSends_pinDraws : (s.afterSends evs n).pinDraws = s.pinDraws := rfl
@[simp] theorem afterSends_pinCalls : (s.afterSends evs n).pinCalls = s.pinCalls := rfl
@[simp] theorem afterSends_wire : (s.afterSends evs n).wire = s.wire ++ evs := rfl
@[simp] theorem afterSends_sendDraws : (s.afterSends evs n).sendDraws = s.sendDraws.drop n := rfl
@[simp] theorem afterSends_sendCalls : (s.afterSends evs n).sendCalls = s.sendCalls + n := rfl

end

theorem afterSend_eq_afterSends (s : State) (b : Byte) :
    s.afterSend b = s.afterSends [.send b (s.sendDraw 0)] 1 := rfl

@[simp] theorem afterSends_afterSends (s : State) (evs evs' : List WireEvent) (m n : Nat) :
    (s.afterSends evs m).afterSends evs' n = s.afterSends (evs ++ evs') (m + n) := by
  simp [State.afterSends, Nat.add_assoc]

@[simp] theorem afterSends_pinDraw (s : State) (evs : List WireEvent) (n k : Nat) :
    (s.afterSends evs n).pinDraw k = s.pinDraw k := rfl

@[simp] theorem afterSends_sendDraw (s : State) (evs : List WireEvent) (n k : Nat) :
    (s.afterSends evs n).sendDraw k = s.sendDraw (n + k) := by
  simp [State.sendDraw, State.afterSends, Nat.add_assoc]

@[simp] theorem afterSends_nil (s : State) : s.afterSends [] 0 = s := by simp [State.afterSends]

/-- Bytes whose draws are Ok go out, and the sending goes on with the bytes after them. -/
theorem sendBytes_append_ok (bs cs : List Byte) {s : State} (h : ∀ k < bs.length, s.sendDraw k = .ok) :
    sendBytes (bs ++ cs) s = sendBytes cs (s.afterSends (bs.map fun b => .send b .ok) bs.length) := by
  induction bs generalizing s with
  | nil => simp
  | cons b bs ih =>
    have h0 : s.sendDraw 0 = .ok := h 0 (by simp)
    have hrest : ∀ k < bs.length, (s.afterSend b).sendDraw k = .ok := fun k hk => by
      simpa using h (k + 1) (by simpa using hk)
    rw [List.cons_append, sendBytes_cons_ok b _ h0, ih hrest, afterSend_eq_afterSends,
      afterSends_afterSends, h0]
    simp [Nat.add_comm]

/-! ## The frame -/

@[simp] theorem txnResult_some (surface : Bool) (e : DeviceError) (rel : PinResult) :
    txnResult surface (some e) rel = .err e := rfl

/-- A frame whose assertion and `n` attempts to send end with `err` is closed by the release, and its result is
that of `err` and the release (R195). -/
theorem runTxn_of_sent {p : Packet} {s : State} {err : Option DeviceError} {evs : List WireEvent} {n : Nat}
    (h : assertAndSend p s = (err, (s.afterSetCs .low).afterSends evs n)) :
    runTxn p s = afterFrame s (.setCs .low (s.pinDraw 0) :: evs ++ [.setCs .high (s.pinDraw 1)]) n
      (txnResult s.params.surfaceReleaseError err (s.pinDraw 1)) := by
  rw [runTxn, h]
  simp [State.addReply, afterFrame]

/-- R167. -/
theorem runTxn_assertion_failed (p : Packet) {s : State} {e : PinError} {l : Level}
    (h : s.pinDraw 0 = .err e l) :
    runTxn p s = afterFrame s [.setCs .low (.err e l), .setCs .high (s.pinDraw 1)] 0 (.err (.pin e)) := by
  have hsent : assertAndSend p s = (some (.pin e), (s.afterSetCs .low).afterSends [] 0) := by
    simp [assertAndSend_err p h]
  simpa [h] using runTxn_of_sent hsent

/-- R165, for a failure at the byte `b`. -/
theorem runTxn_byte_failed {p : Packet} {s : State} {bs cs : List Byte} {b : Byte} {t : TxError}
    (hp : packetBytes p = bs ++ b :: cs) (hassert : s.pinDraw 0 = .ok)
    (hok : ∀ k < bs.length, s.sendDraw k = .ok) (herr : s.sendDraw bs.length = .err t) :
    runTxn p s = afterFrame s (.setCs .low .ok :: (bs.map fun b => .send b .ok) ++
      [.send b (.err t), .setCs .high (s.pinDraw 1)]) (bs.length + 1) (.err (.tx t)) := by
  have hsent : assertAndSend p s = (some (.tx t), (s.afterSetCs .low).afterSends
      ((bs.map fun b => .send b .ok) ++ [.send b (.err t)]) (bs.length + 1)) := by
    rw [assertAndSend_ok p hassert, hp, sendBytes_append_ok (s := s.afterSetCs .low) bs _ hok,
      sendBytes_cons_err (t := t) b cs (by simp [herr]), afterSend_eq_afterSends, afterSends_afterSends]
    simp [herr]
  simpa [hassert] using runTxn_of_sent hsent

/-- With every byte sent the result is the release's. -/
theorem runTxn_all_sent (p : Packet) {s : State} (hassert : s.pinDraw 0 = .ok)
    (hok : ∀ k < 3, s.sendDraw k = .ok) :
    runTxn p s = afterFrame s [.setCs .low .ok, .send p.b0 .ok, .send p.b1 .ok, .send p.b2 .ok,
      .setCs .high (s.pinDraw 1)] 3 (txnResult s.params.surfaceReleaseError none (s.pinDraw 1)) := by
  have hsent : assertAndSend p s = (none, (s.afterSetCs .low).afterSends
      ((packetBytes p).map fun b => .send b .ok) 3) := by
    rw [assertAndSend_ok p hassert, ← List.append_nil (packetBytes p),
      sendBytes_append_ok (s := s.afterSetCs .low) (packetBytes p) [] hok]
    rfl
  simpa [hassert, packetBytes] using runTxn_of_sent hsent

/-- Settles O43: the five paths are the failed assertion, the failures at byte 0, 1 and 2, and no failure before
the release. -/
theorem txnOutcomeOnEveryPath : Obligations.TxnOutcomeOnEveryPath := by
  intro p s
  refine ⟨fun e l h => runTxn_assertion_failed p h, fun t ha h0 => ?_, fun t ha h0 h1 => ?_,
    fun t ha h0 h1 h2 => ?_, fun ha h0 h1 h2 => ?_⟩
  · exact runTxn_byte_failed (bs := []) rfl ha (by simp) h0
  · exact runTxn_byte_failed (bs := [p.b0]) rfl ha (by simpa using h0) h1
  · have hok : ∀ k < 2, s.sendDraw k = .ok
      | 0, _ => h0
      | 1, _ => h1
    exact runTxn_byte_failed (bs := [p.b0, p.b1]) rfl ha hok h2
  · have hok : ∀ k < 3, s.sendDraw k = .ok
      | 0, _ => h0
      | 1, _ => h1
      | 2, _ => h2
    exact runTxn_all_sent p ha hok

/-- A frame's events are its assertion and bytes and then the release; they follow the chip-select discipline
where RSV of the first byte is clear (R24). -/
theorem runTxn_eq_afterFrame (p : Packet) (s : State) : ∃ evs n res,
    runTxn p s = afterFrame s (evs ++ [.setCs .high (s.pinDraw 1)]) n res ∧
      (p.b0.extractLsb' 6 2 = 0 →
        frameRun .released (evs ++ [.setCs .high (s.pinDraw 1)]) = some .released) := by
  obtain ⟨hassert, hbyte0, hbyte1, hbyte2, hall⟩ := txnOutcomeOnEveryPath p s
  cases ha : s.pinDraw 0 with
  | err e l => exact ⟨[_], _, _, hassert e l ha, fun _ => rfl⟩
  | ok =>
    cases h0 : s.sendDraw 0 with
    | err t => exact ⟨[_, _], _, _, hbyte0 t ha h0, fun hrsv => by simp [frameRun, frameStep, hrsv]⟩
    | ok =>
      cases h1 : s.sendDraw 1 with
      | err t => exact ⟨[_, _, _], _, _, hbyte1 t ha h0 h1, fun hrsv => by simp [frameRun, frameStep, hrsv]⟩
      | ok =>
        cases h2 : s.sendDraw 2 with
        | err t =>
          exact ⟨[_, _, _, _], _, _, hbyte2 t ha h0 h1 h2, fun hrsv => by simp [frameRun, frameStep, hrsv]⟩
        | ok =>
          exact ⟨[_, _, _, _], _, _, hall ha h0 h1 h2, fun hrsv => by simp [frameRun, frameStep, hrsv]⟩

end Sys2Proof.Machine
end

section
/-! What every step keeps: the builder set (30_encoding.md section 3), whole chip-select frames
(42_device_operations.md section 2), the CS level (10_state.md R30), and what a step appends. -/

namespace Sys2Proof.Machine

/-! ## What completed instructions and steps do to the line and the wire -/

/-- A completed instruction that is no device operation leaves the wire and CS. -/
theorem Completion.io {s t : State} (h : Completion s t) :
    (t.wire = s.wire ∧ t.cs = s.cs) ∨ ∃ w, WrittenFrom newBuffer w ∧ t = runTxn (packetOfWord w) s := by
  cases h with
  | startsBuild | writesField | endsBuild | returnsPacket => exact .inl ⟨rfl, rfl⟩
  | framesPacket _ hw => exact .inr ⟨_, hw, rfl⟩

/-- The decoder's answer is never a frame. -/
theorem workOfDecoded_ne_frame (d : Decoded) (p : Packet) : workOfDecoded d ≠ .frame p := by
  cases d <;> simp [workOfDecoded]

/-- TXN of a packet in the builder set is framed, and of any other refused (R74, log entry 11). -/
theorem workOf_txn (t : GainAssignment) (p : Packet) :
    (isBuilderWord (wordOfPacket p) = true ∧ workOf t (.txn p) = .frame p) ∨
      (isBuilderWord (wordOfPacket p) = false ∧ ∃ why, workOf t (.txn p) = .refuse (.notProduced why)) := by
  cases hres : reservedClear (wordOfPacket p) with
  | false => exact .inr ⟨by simp [isBuilderWord, hres], .reservedBits, by simp [workOf, hres]⟩
  | true =>
    cases haddr : addressEnumerated (wordOfPacket p) with
    | false => exact .inr ⟨by simp [isBuilderWord, haddr], .unusedAddress, by simp [workOf, hres, haddr]⟩
    | true => exact .inl ⟨by simp [isBuilderWord, hres, haddr], by simp [workOf, hres, haddr]⟩

/-- A packet that a request has framed is a word of the builder set. -/
theorem isBuilderWord_of_workOf {t : GainAssignment} {r : Request} {p : Packet} (h : workOf t r = .frame p) :
    isBuilderWord (wordOfPacket p) = true := by
  cases r with
  | txn q =>
    obtain ⟨hq, hwork⟩ | ⟨-, why, hwork⟩ := workOf_txn t q <;> rw [hwork] at h <;> cases h
    exact hq
  | call | overlapping => cases h
  | row | bytes => exact absurd h (workOfDecoded_ne_frame _ p)

/-- A step leaves the wire and CS, or frames a packet whose RSV is clear. -/
theorem step_io {s t : State} (h : step s = .next t) :
    (t.wire = s.wire ∧ t.cs = s.cs) ∨
      ∃ p rest, p.b0.extractLsb' 6 2 = 0 ∧ t = runTxn p (s.withRequests rest) := by
  obtain ⟨-, rfl⟩ | ⟨r, rest, -, ⟨i, -, hi⟩ | ⟨p, hp, rfl⟩⟩ := step_next h
  · exact .inl ⟨rfl, rfl⟩
  · obtain hkeep | ⟨w, hw, rfl⟩ := (exec_completion hi).io
    · exact .inl hkeep
    · exact .inr ⟨packetOfWord w, rest, (packetOfWord_reserved w).trans hw.reserved, rfl⟩
  · have hrsv := (isBuilderWord_iff.1 (isBuilderWord_of_workOf hp)).1
    rw [← packetOfWord_reserved, packetOfWord_wordOfPacket] at hrsv
    exact .inr ⟨p, rest, hrsv, rfl⟩

/-! ## The wire -/

theorem frameRun_append (pos : FramePos) (es es' : List WireEvent) :
    frameRun pos (es ++ es') = (frameRun pos es).bind fun next => frameRun next es' := by
  induction es generalizing pos with
  | nil => rfl
  | cons e es ih => simp [frameRun, ih, Option.bind_assoc]

/-- Settles O52: a step puts nothing on the wire or one whole frame behind the whole frames. -/
theorem stepKeepsWireFramed : Obligations.StepKeepsWireFramed := by
  intro s t h hs
  obtain ⟨hwire, -⟩ | ⟨p, rest, hrsv, rfl⟩ := step_io hs
  · rwa [WireFramed, hwire]
  · obtain ⟨evs, n, res, hrun, hframe⟩ := runTxn_eq_afterFrame p (s.withRequests rest)
    have hbefore : frameRun .released (s.withRequests rest).wire = some .released := h
    rw [WireFramed, hrun, afterFrame, frameRun_append, hbefore]
    exact hframe hrsv

theorem lastLevel_append_setCs (es : List WireEvent) (l : Level) (r : PinResult) :
    lastLevel (es ++ [.setCs l r]) = some (levelAfter l r) := by
  induction es with
  | nil => rfl
  | cons e es ih => cases e <;> simp [lastLevel, ih]

/-- Settles O53: a step leaves the wire and CS, or makes a frame, whose last `SetCS` is the release. -/
theorem stepKeepsCsFollowingWire : Obligations.StepKeepsCsFollowingWire := by
  intro s t h hs
  obtain ⟨hwire, hcs⟩ | ⟨p, rest, -, rfl⟩ := step_io hs
  · rwa [CsFollowsWire, hwire, hcs]
  · obtain ⟨evs, n, res, hrun, -⟩ := runTxn_eq_afterFrame p (s.withRequests rest)
    intro l hl
    rw [hrun, afterFrame, ← List.append_assoc, lastLevel_append_setCs] at hl
    rw [hrun]
    exact Option.some.inj hl

/-! ## The builder set -/

/-- No field but ADDR reaches the address bits (R100). -/
theorem fieldWrite_addrBits {f : Field} (hf : f ≠ .addr) {n : Nat} (v : BitVec n) (w : PacketWord) :
    addrBits (fieldWrite f v w) = addrBits w := by
  have hdisjoint : fieldMask .addr &&& fieldMask f = 0 := by
    cases f with
    | addr => exact absurd rfl hf
    | cmd | data | pdMode | pdSel | gain | ldacMode | rstMode | ref => rfl
  exact fieldWrite_extract_disjoint hdisjoint v w

/-- The setters keep a buffer in the builder set. -/
theorem WrittenFrom.isBuilderWord {p q : PacketWord} (h : WrittenFrom p q) (hp : isBuilderWord p = true) :
    isBuilderWord q = true := by
  obtain ⟨hres, haddr⟩ := isBuilderWord_iff.1 hp
  refine isBuilderWord_iff.2 ⟨h.reserved.trans hres, ?_⟩
  induction h with
  | refl => exact haddr
  | addr adr _ _ => exact ⟨adr, (fieldWrite_extract .addr adr.code _).symm⟩
  | field hf v _ ih => rwa [fieldWrite_addrBits hf]

namespace BuilderInv

variable {s : State}

theorem building (h : BuilderInv s) {w : PacketWord} (hw : isBuilderWord w = true) :
    BuilderInv (s.withPhase (.building w)) := ⟨hw, h.2⟩

theorem idle (h : BuilderInv s) : BuilderInv (s.withPhase .idle) := ⟨rfl, h.2⟩

theorem addPacket (h : BuilderInv s) {w : PacketWord} (hw : isBuilderWord w = true) :
    BuilderInv (s.addReply (.packet (packetOfWord w))) := by
  refine ⟨h.1, ?_⟩
  simp [replyOk, hw, h.2, -List.all_eq_true]

theorem txn (h : BuilderInv s) (p : Packet) : BuilderInv (runTxn p s) := by
  obtain ⟨r, hr⟩ := runTxn_replies p s
  refine ⟨by simpa using h.1, ?_⟩
  rw [hr, List.all_append, h.2]
  rfl

theorem completion (h : BuilderInv s) {t : State} (hc : Completion s t) : BuilderInv t := by
  cases hc with
  | startsBuild _ => exact h.building rfl
  | @writesField pkt _ hp hw =>
    have hpkt : isBuilderWord pkt = true := by simpa [hp, phaseOk] using h.1
    exact h.building (hw.isBuilderWord hpkt)
  | @endsBuild pkt hp =>
    have hpkt : isBuilderWord pkt = true := by simpa [hp, phaseOk] using h.1
    exact h.idle.addPacket hpkt
  | returnsPacket _ hw => exact h.addPacket (hw.isBuilderWord rfl)
  | framesPacket _ _ => exact h.txn _

theorem withRequests (h : BuilderInv s) (rs : List Request) : BuilderInv (s.withRequests rs) := h

end BuilderInv

/-- Settles O51: every form of completion keeps the builder set, because an address written is an enumerated one
and nothing else writes ADDR or RSV. -/
theorem stepKeepsBuilderWords : Obligations.StepKeepsBuilderWords := by
  intro s t h hs
  obtain ⟨-, rfl⟩ | ⟨r, rest, -, ⟨i, -, hi⟩ | ⟨p, -, rfl⟩⟩ := step_next hs
  · exact h
  · exact (h.withRequests rest).completion (exec_completion hi)
  · exact (h.withRequests rest).txn p

/-- Settles O54: the lists are empty and the phase is Idle. -/
theorem resetMeetsTheInvariants : Obligations.ResetMeetsTheInvariants :=
  fun _ => ⟨⟨rfl, rfl⟩, rfl, fun _ h => (nomatch h)⟩

/-! ## What a step appends -/

theorem runTxn_appends (p : Packet) (s : State) :
    (runTxn p s).params = s.params ∧ s.replies <+: (runTxn p s).replies ∧ s.wire <+: (runTxn p s).wire ∧
      (runTxn p s).requests = s.requests := by
  obtain ⟨evs, n, res, hrun, -⟩ := runTxn_eq_afterFrame p s
  rw [hrun]
  exact ⟨rfl, ⟨_, rfl⟩, ⟨_, rfl⟩, rfl⟩

theorem Completion.appends {s t : State} (h : Completion s t) :
    t.params = s.params ∧ s.replies <+: t.replies ∧ s.wire <+: t.wire ∧ t.requests = s.requests := by
  cases h with
  | startsBuild | writesField => exact ⟨rfl, List.prefix_rfl, List.prefix_rfl, rfl⟩
  | endsBuild | returnsPacket => exact ⟨rfl, ⟨_, rfl⟩, List.prefix_rfl, rfl⟩
  | framesPacket => exact runTxn_appends _ s

/-- Settles O55: a completion appends to the lists, and the step before it takes one request. -/
theorem stepsOnlyAppend : Obligations.StepsOnlyAppend := by
  intro s t hs
  obtain ⟨hnil, rfl⟩ | ⟨r, rest, hr, ⟨i, -, hi⟩ | ⟨p, -, rfl⟩⟩ := step_next hs
  · exact ⟨rfl, List.prefix_rfl, List.prefix_rfl, by rw [hnil, List.tail_nil]⟩
  · simpa [hr] using (exec_completion hi).appends
  · simpa [hr] using runTxn_appends p (s.withRequests rest)

end Sys2Proof.Machine
end

section
/-! The words the encode operations build (41_command_encoders.md), and the instructions by class
(40_builder_ops.md R102). -/

namespace Sys2Proof.Machine

/-! ## Built words -/

/-- SET_CMD, SET_ADDR and SET_DATA place their operands side by side on the new buffer. -/
theorem fieldWrite_cmd_addr_data (c a : BitVec 3) (v : Half) :
    fieldWrite .data v (fieldWrite .addr a (fieldWrite .cmd c newBuffer)) = 0#2 ++ c ++ a ++ v := by
  refine (wordForm_iff.2 ⟨?_, ?_, ?_, ?_⟩).symm
  · rw [fieldWrite_reserved, fieldWrite_reserved, fieldWrite_reserved]
    rfl
  · have hdata := fieldWrite_extract_disjoint (f := .data) (g := .cmd) (by decide) v
    have haddr := fieldWrite_extract_disjoint (f := .addr) (g := .cmd) (by decide) a
    exact ((hdata _).trans ((haddr _).trans (fieldWrite_extract .cmd c newBuffer))).symm
  · have hdata := fieldWrite_extract_disjoint (f := .data) (g := .addr) (by decide) v
    exact ((hdata _).trans (fieldWrite_extract .addr a _)).symm
  · exact (fieldWrite_extract .data v _).symm

theorem buildData_eq (op : Op) (ch : Channel) (v : Half) : buildData op ch v = 0#2 ++ op.code ++ ch.code ++ v :=
  fieldWrite_cmd_addr_data op.code ch.addr.code v

theorem buildGain_eq (t : GainAssignment) (g : GainMode) : buildGain t g = encode t (.writeGain g) := by
  cases t <;> cases g <;> decide

theorem exec_encodeOp {i : Instr} (h : isEncodeOp i = true) (s : State) :
    exec i s = withBuiltPacket (encode s.params.gainCodes i) replyPacket s := by
  cases i with
  | writeN ch v => exact congrArg (withBuiltPacket · replyPacket s) (buildData_eq .writeN ch v)
  | wuAll ch v => exact congrArg (withBuiltPacket · replyPacket s) (buildData_eq .wuAll ch v)
  | wuN ch v => exact congrArg (withBuiltPacket · replyPacket s) (buildData_eq .wuN ch v)
  | writeGain g => exact congrArg (withBuiltPacket · replyPacket s) (buildGain_eq s.params.gainCodes g)
  | swLatch => rfl
  | power m sel => cases m <;> cases sel <;> rfl
  | reset r => cases r <;> rfl
  | ldacCtrl l => cases l <;> rfl
  | refCtrl e => cases e <;> rfl
  | new | setCmd | setAddr | setData | setGain | setPdMode | setPdSel | setRstMode | setLdacMode | setRef
  | finalize | devInit | devSetPower | devWrite | devLatch => cases h

/-- A device operation frames the packet of a word that its operands alone determine. -/
theorem exec_deviceOp {i : Instr} (h : isDeviceOp i = true) :
    ∃ w : PacketWord, ∀ s, exec i s = withBuiltPacket w runTxn s := by
  cases i with
  | devInit => exact ⟨buildReset .all, fun _ => rfl⟩
  | devSetPower m sel => exact ⟨buildPower m sel, fun _ => rfl⟩
  | devWrite v ch => exact ⟨buildData .writeN ch v, fun _ => rfl⟩
  | devLatch => exact ⟨buildSwLatch, fun _ => rfl⟩
  | writeN | writeGain | swLatch | wuAll | wuN | power | reset | ldacCtrl | refCtrl | new | setCmd | setAddr
  | setData | setGain | setPdMode | setPdSel | setRstMode | setLdacMode | setRef | finalize => cases h

theorem exec_setter {i : Instr} {f : Field} (h : setterField i = some f) :
    ∃ code : Params → BitVec (fieldWidth f), ∀ s, exec i s = setField f (code s.params) s := by
  cases i with
  | setCmd op => cases h; exact ⟨fun _ => op.code, fun _ => rfl⟩
  | setAddr adr => cases h; exact ⟨fun _ => adr.code, fun _ => rfl⟩
  | setData v => cases h; exact ⟨fun _ => v, fun _ => rfl⟩
  | setGain g => cases h; exact ⟨fun p => gainCode p.gainCodes g, fun _ => rfl⟩
  | setPdMode m => cases h; exact ⟨fun _ => m.code, fun _ => rfl⟩
  | setPdSel sel => cases h; exact ⟨fun _ => sel.code, fun _ => rfl⟩
  | setRstMode r => cases h; exact ⟨fun _ => r.code, fun _ => rfl⟩
  | setLdacMode l => cases h; exact ⟨fun _ => l.code, fun _ => rfl⟩
  | setRef e => cases h; exact ⟨fun _ => e.code, fun _ => rfl⟩
  | writeN | writeGain | swLatch | wuAll | wuN | power | reset | ldacCtrl | refCtrl | new | finalize | devInit
  | devSetPower | devWrite | devLatch => cases h

/-! ## The phase -/

theorem needsBuild_iff {i : Instr} :
    needsBuild i = true ↔ (∃ f, setterField i = some f) ∨ i = .finalize := by
  simp [needsBuild, Option.isSome_iff_exists]

/-- The instructions that need no build start one, or build a whole packet. -/
theorem class_of_not_needsBuild {i : Instr} (h : needsBuild i = false) :
    i = .new ∨ isEncodeOp i = true ∨ isDeviceOp i = true := by
  cases i with
  | new => exact .inl rfl
  | writeN | writeGain | swLatch | wuAll | wuN | power | reset | ldacCtrl | refCtrl => exact .inr (.inl rfl)
  | devInit | devSetPower | devWrite | devLatch => exact .inr (.inr rfl)
  | setCmd | setAddr | setData | setGain | setPdMode | setPdSel | setRstMode | setLdacMode | setRef
  | finalize => cases h

theorem exec_needsBuild_idle {i : Instr} (hi : needsBuild i = true) {s : State} (hs : s.phase = .idle) :
    exec i s = .refused .noBuild := by
  obtain ⟨f, hf⟩ | rfl := needsBuild_iff.1 hi
  · obtain ⟨code, hcode⟩ := exec_setter hf
    rw [hcode, setField_idle f _ hs]
  · rw [exec_finalize, finishBuild_idle hs]

theorem exec_needsBuild_building {i : Instr} (hi : needsBuild i = true) {s : State} {pkt : PacketWord}
    (hs : s.phase = .building pkt) : ∃ t, exec i s = .next t := by
  obtain ⟨f, hf⟩ | rfl := needsBuild_iff.1 hi
  · obtain ⟨code, hcode⟩ := exec_setter hf
    exact ⟨_, (hcode s).trans (setField_building f _ hs)⟩
  · exact ⟨_, (exec_finalize s).trans (finishBuild_building hs)⟩

theorem exec_wholeBuild_idle {i : Instr} (hi : needsBuild i = false) {s : State} (hs : s.phase = .idle) :
    ∃ t, exec i s = .next t := by
  obtain rfl | hencode | hdevice := class_of_not_needsBuild hi
  · exact ⟨_, (exec_new s).trans (startBuild_idle hs)⟩
  · exact ⟨_, (exec_encodeOp hencode s).trans (withBuiltPacket_idle _ _ hs)⟩
  · obtain ⟨w, hw⟩ := exec_deviceOp hdevice
    exact ⟨_, (hw s).trans (withBuiltPacket_idle _ _ hs)⟩

theorem exec_wholeBuild_building {i : Instr} (hi : needsBuild i = false) {s : State} {pkt : PacketWord}
    (hs : s.phase = .building pkt) : exec i s = .refused .buildInProgress := by
  obtain rfl | hencode | hdevice := class_of_not_needsBuild hi
  · rw [exec_new, startBuild_building hs]
  · rw [exec_encodeOp hencode, withBuiltPacket_building _ _ hs]
  · obtain ⟨w, hw⟩ := exec_deviceOp hdevice
    rw [hw, withBuiltPacket_building _ _ hs]

/-- Settles O22: the four cases of whether the instruction needs a build and whether one is in progress. -/
theorem instructionsRefusedExactlyOutOfPhase : Obligations.InstructionsRefusedExactlyOutOfPhase := by
  intro i s
  cases hi : needsBuild i <;> cases hs : s.phase
  case false.idle =>
    obtain ⟨t, ht⟩ := exec_wholeBuild_idle hi hs
    simp [ht]
  case false.building => simp [exec_wholeBuild_building hi hs]
  case true.idle => simp [exec_needsBuild_idle hi hs]
  case true.building =>
    obtain ⟨t, ht⟩ := exec_needsBuild_building hi hs
    simp [ht]

/-! ## What the builder and encode operations leave -/

theorem startBuild_next {s t : State} (h : startBuild s = .next t) :
    s.phase = .idle ∧ t = s.withPhase (.building newBuffer) := by
  cases hp : s.phase with
  | idle => rw [startBuild_idle hp] at h; cases h; exact ⟨rfl, rfl⟩
  | building pkt => rw [startBuild_building hp] at h; cases h

theorem finishBuild_next {s t : State} (h : finishBuild s = .next t) :
    ∃ pkt, s.phase = .building pkt ∧ t = (s.withPhase .idle).addReply (.packet (packetOfWord pkt)) := by
  cases hp : s.phase with
  | idle => rw [finishBuild_idle hp] at h; cases h
  | building pkt => rw [finishBuild_building hp] at h; cases h; exact ⟨pkt, rfl, rfl⟩

/-- Settles O38: of the instructions that are no device operation, NEW and the setters write the phase, FINALIZE
the phase and the replies, and the encode operations the replies. -/
theorem encoderOpsDoNoIo : Obligations.EncoderOpsDoNoIo := by
  intro i s t hdevice ht
  cases hi : needsBuild i with
  | true =>
    obtain ⟨f, hf⟩ | rfl := needsBuild_iff.1 hi
    · obtain ⟨code, hcode⟩ := exec_setter hf
      obtain ⟨pkt, -, rfl⟩ := setField_next ((hcode s).symm.trans ht)
      rfl
    · obtain ⟨pkt, -, rfl⟩ := finishBuild_next ht
      rfl
  | false =>
    obtain rfl | hencode | hdevice' := class_of_not_needsBuild hi
    · obtain ⟨-, rfl⟩ := startBuild_next ht
      rfl
    · obtain ⟨-, rfl⟩ := withBuiltPacket_next ((exec_encodeOp hencode s).symm.trans ht)
      rfl
    · cases hdevice.symm.trans hdevice'

end Sys2Proof.Machine
end

section
/-! Builds call by call (40_builder_ops.md section 3), and the encode operations as builds
(41_command_encoders.md). -/

namespace Sys2Proof.Machine

/-! ## NEW and FINALIZE -/

/-- Settles O11: the new buffer is the zero word. -/
theorem newStartsZeroBuild : Obligations.NewStartsZeroBuild := fun s hs =>
  (exec_new s).trans (startBuild_idle hs)

/-- Settles O21: FINALIZE leaves the encoder Idle, where what needs a build is refused. -/
theorem finalizeReturnsThreeBytes : Obligations.FinalizeReturnsThreeBytes :=
  ⟨fun s _ hs => ⟨_, (exec_finalize s).trans (finishBuild_building hs), rfl,
    fun _ hi => exec_needsBuild_idle hi rfl⟩,
  fun s hs => (exec_finalize s).trans (finishBuild_idle hs)⟩

/-! ## Setters in a sequence of calls -/

/-- A setter in a build is its field write, with the code that the parameters give its operand. -/
theorem runCalls_cons_setter {i : Instr} {f : Field} {code : Params → BitVec (fieldWidth f)}
    (hi : ∀ s, exec i s = setField f (code s.params) s) (is : List Instr) (s : State) (pkt : PacketWord) :
    runCalls (i :: is) (s.withPhase (.building pkt)) =
      runCalls is (s.withPhase (.building (fieldWrite f (code s.params) pkt))) :=
  runCalls_cons_next is ((hi _).trans (setField_building f _ rfl))

theorem runCalls_setter_idle {i : Instr} {f : Field} (hi : setterField i = some f) (is : List Instr) {s : State}
    (hs : s.phase = .idle) : runCalls (i :: is) s = .refused .noBuild := by
  simp only [runCalls, exec_needsBuild_idle (needsBuild_iff.2 (.inl ⟨f, hi⟩)) hs]

/-- Settles O23: in a build the second write covers the first, and in Idle both runs are refused. -/
theorem laterCoveringSetterWins : Obligations.LaterCoveringSetterWins := by
  intro i j f g s hi hj hcover
  cases hs : s.phase with
  | idle => rw [runCalls_setter_idle hi _ hs, runCalls_setter_idle hj _ hs]
  | building pkt =>
    obtain ⟨u, hu⟩ := exec_setter hi
    obtain ⟨v, hv⟩ := exec_setter hj
    rw [← withPhase_eq_self hs, runCalls_cons_setter hu, runCalls_cons_setter hv, runCalls_cons_setter hv,
      fieldWrite_covered hcover]

/-- Setters of disjoint fields may be exchanged, whatever calls follow. -/
theorem runCalls_swap {i j : Instr} {f g : Field} (hi : setterField i = some f) (hj : setterField j = some g)
    (hdisjoint : fieldMask f &&& fieldMask g = 0) (is : List Instr) (s : State) :
    runCalls (i :: j :: is) s = runCalls (j :: i :: is) s := by
  cases hs : s.phase with
  | idle => rw [runCalls_setter_idle hi _ hs, runCalls_setter_idle hj _ hs]
  | building pkt =>
    obtain ⟨u, hu⟩ := exec_setter hi
    obtain ⟨v, hv⟩ := exec_setter hj
    rw [← withPhase_eq_self hs, runCalls_cons_setter hu, runCalls_cons_setter hv, runCalls_cons_setter hv,
      runCalls_cons_setter hu, fieldWrite_comm hdisjoint]

/-- Settles O24: the exchange of two setters with nothing after them; the pairs are looked up in the masks. -/
theorem disjointSettersCommute : Obligations.DisjointSettersCommute :=
  ⟨fun _ _ _ _ s hi hj hdisjoint => runCalls_swap hi hj hdisjoint [] s,
    fun f g => by cases f <;> cases g <;> decide⟩

/-- Setters in a build write a buffer that the parameters and the old buffer alone determine. -/
theorem runCalls_setters {l : List Instr} (hl : ∀ i ∈ l, (setterField i).isSome = true) :
    ∃ write : Params → PacketWord → PacketWord, ∀ (is : List Instr) (s : State) (pkt : PacketWord),
      runCalls (l ++ is) (s.withPhase (.building pkt)) =
        runCalls is (s.withPhase (.building (write s.params pkt))) := by
  induction l with
  | nil => exact ⟨fun _ pkt => pkt, fun _ _ _ => rfl⟩
  | cons i l ih =>
    obtain ⟨write, hwrite⟩ := ih fun j hj => hl j (.tail i hj)
    obtain ⟨f, hf⟩ := Option.isSome_iff_exists.1 (hl i (.head l))
    obtain ⟨code, hcode⟩ := exec_setter hf
    refine ⟨fun p pkt => write p (fieldWrite f (code p) pkt), fun is s pkt => ?_⟩
    rw [List.cons_append, runCalls_cons_setter hcode, hwrite]

/-- Settles O25: the buffer starts at zero, and the setters write it by the parameters alone. -/
theorem buildsForgetTheirPast : Obligations.BuildsForgetTheirPast := by
  intro l s1 s2 hl hs1 hs2 hparams
  obtain ⟨write, hwrite⟩ := runCalls_setters hl
  have hbuild {s : State} (hs : s.phase = .idle) : runCalls (.new :: l ++ [.finalize]) s =
      .next (replyPacket (packetOfWord (write s.params newBuffer)) s) := by
    rw [List.cons_append, runCalls_new _ hs, hwrite, runCalls_finalize _ hs]
  exact ⟨packetOfWord (write s1.params newBuffer), hbuild hs1, by rw [hparams]; exact hbuild hs2⟩

/-- Settles O26: SET_CMD, SET_ADDR and SET_DATA with the three parts of the word write it, for its RSV is 0. -/
theorem builderReachesEveryBuilderWord : Obligations.BuilderReachesEveryBuilderWord := by
  intro w hw
  obtain ⟨hres, adr, hadr⟩ := isBuilderWord_iff.1 hw
  obtain ⟨op, hop⟩ := Op.exists_code (cmdBits w)
  have hword : fieldWrite .data (dataBits w)
      (fieldWrite .addr adr.code (fieldWrite .cmd op.code newBuffer)) = w := by
    rw [fieldWrite_cmd_addr_data]
    exact wordForm_iff.2 ⟨hres.symm, hop, hadr, rfl⟩
  refine ⟨op, adr, dataBits w, fun s hs => ?_⟩
  rw [runCalls_new _ hs, runCalls_setter _ (exec_setCmd op), runCalls_setter _ (exec_setAddr adr),
    runCalls_setter _ (exec_setData (dataBits w)), hword, runCalls_finalize _ hs]
  rfl

/-! ## The setters of an expansion, in any order -/

/-- Two setters whose fields share no bit. -/
def DisjointSetters (i j : Instr) : Prop :=
  ∃ f g, setterField i = some f ∧ setterField j = some g ∧ fieldMask f &&& fieldMask g = 0

theorem DisjointSetters.symm {i j : Instr} (h : DisjointSetters i j) : DisjointSetters j i := by
  obtain ⟨f, g, hi, hj, hdisjoint⟩ := h
  exact ⟨g, f, hj, hi, (BitVec.and_comm _ _).trans hdisjoint⟩

/-- Setters of fields that share no bit, two by two, may be put in any order. -/
theorem runCalls_perm {l l' : List Instr} (h : l.Perm l') (hl' : l'.Pairwise DisjointSetters) (is : List Instr)
    (s : State) : runCalls (l ++ is) s = runCalls (l' ++ is) s := by
  induction h generalizing s with
  | nil => rfl
  | cons i _ ih =>
    have hrest := ih (List.pairwise_cons.1 hl').2
    cases he : exec i s <;> simp only [List.cons_append, runCalls, he, hrest]
  | swap i j l =>
    obtain ⟨f, g, hi, hj, hdisjoint⟩ := (List.pairwise_cons.1 hl').1 j (.head l)
    exact (runCalls_swap hi hj hdisjoint (l ++ is) s).symm
  | trans _ h2 ih1 ih2 =>
    exact (ih1 ((h2.pairwise_iff DisjointSetters.symm).2 hl') s).trans (ih2 hl' s)

theorem expansion_disjoint (i : Instr) : (expansion i).Pairwise DisjointSetters := by
  cases i <;> simp [expansion, DisjointSetters, setterField, fieldMask]

/-- An encode operation is the build its rule writes (R130 to R138). -/
theorem runCalls_expansion {i : Instr} (hi : isEncodeOp i = true) (s : State) :
    runCalls (.new :: expansion i ++ [.finalize]) s = exec i s := by
  cases hs : s.phase with
  | building pkt =>
    rw [List.cons_append, runCalls_new_building _ hs, exec_encodeOp hi, withBuiltPacket_building _ _ hs]
  | idle =>
    obtain ⟨params, phase, cs, requests, replies, wire, sendDraws, pinDraws, sendCalls, pinCalls⟩ := s
    cases hs
    cases i with
    | writeN | writeGain | swLatch | wuAll | wuN | power | reset | ldacCtrl | refCtrl => rfl
    | new | setCmd | setAddr | setData | setGain | setPdMode | setPdSel | setRstMode | setLdacMode | setRef
    | finalize | devInit | devSetPower | devWrite | devLatch => cases hi

/-- Settles O35: the setters of an expansion write disjoint fields, so each order of them is the rule's. -/
theorem encodeOpsAreTheirExpansions : Obligations.EncodeOpsAreTheirExpansions := by
  intro i l s hi hl
  rw [← runCalls_expansion hi s]
  cases hs : s.phase with
  | idle =>
    rw [List.cons_append, runCalls_new _ hs, runCalls_perm hl (expansion_disjoint i)]
    exact (runCalls_new _ hs).symm
  | building pkt => exact (runCalls_new_building _ hs).trans (runCalls_new_building _ hs).symm

end Sys2Proof.Machine
end

section
/-! The packets of the encode operations and of the device operations (41_command_encoders.md,
42_device_operations.md section 3), and what a device operation leaves (60_exceptions.md section 4). -/

namespace Sys2Proof.Machine

/-! ## The bytes of the built words -/

theorem packetOfWord_append (b : Byte) (v : Half) :
    packetOfWord (b ++ v) = ⟨b, v.extractLsb' 8 8, v.extractLsb' 0 8⟩ := by
  rw [packetOfWord, BitVec.extractLsb'_append_eq_left, BitVec.extractLsb'_append_eq_of_add_le (by decide),
    BitVec.extractLsb'_append_eq_of_add_le (by decide)]

theorem packetOfWord_buildData (op : Op) (ch : Channel) (v : Half) : packetOfWord (buildData op ch v) =
    ⟨(op.code.setWidth 8 <<< 3) ||| ch.code.setWidth 8, v.extractLsb' 8 8, v.extractLsb' 0 8⟩ := by
  have hbyte : (0#2 ++ op.code ++ ch.code : Byte) = (op.code.setWidth 8 <<< 3) ||| ch.code.setWidth 8 := by
    cases op <;> cases ch <;> rfl
  rw [buildData_eq, packetOfWord_append, hbyte]

/-- The CMD code of WRITE_N is 0, so the first byte is the channel's code. -/
theorem packetOfWord_buildData_writeN (ch : Channel) (v : Half) : packetOfWord (buildData .writeN ch v) =
    ⟨ch.code.setWidth 8, v.extractLsb' 8 8, v.extractLsb' 0 8⟩ := by
  rw [packetOfWord_buildData]
  cases ch <;> rfl

theorem packetOfWord_buildGain (t : GainAssignment) (g : GainMode) :
    packetOfWord (buildGain t g) = ⟨0x02, 0x00, (gainCode t g).setWidth 8⟩ := by
  cases t <;> cases g <;> decide

theorem packetOfWord_buildPower (m : PowerMode) (sel : PowerSel) : packetOfWord (buildPower m sel) =
    ⟨0x20, 0x00, (m.code.setWidth 8 <<< 4) ||| sel.code.setWidth 8⟩ := by
  cases m <;> cases sel <;> decide

theorem packetOfWord_buildReset (r : ResetMode) :
    packetOfWord (buildReset r) = ⟨0x28, 0x00, r.code.setWidth 8⟩ := by cases r <;> decide

/-! ## The encode operations -/

/-- Settles O27: the bytes are those of its build. -/
theorem encWriteNReturnsItsBytes : Obligations.EncWriteNReturnsItsBytes := fun ch v =>
  encodes_of_exec (fun _ => rfl) (packetOfWord_buildData_writeN ch v)

/-- Settles O28: the CMD codes 2 and 3 stand at bit 3 of the first byte. -/
theorem encWriteUpdateReturnsItsBytes : Obligations.EncWriteUpdateReturnsItsBytes := fun ch v =>
  ⟨encodes_of_exec (fun _ => rfl) (packetOfWord_buildData .wuAll ch v),
    encodes_of_exec (fun _ => rfl) (packetOfWord_buildData .wuN ch v)⟩

/-- Settles O29: the bytes are those of its build under each assignment. -/
theorem encWriteGainReturnsGainCode : Obligations.EncWriteGainReturnsGainCode := by
  have hbytes (g : GainMode) : Encodes (.writeGain g) fun s =>
      ⟨0x02, 0x00, (gainCode s.params.gainCodes g).setWidth 8⟩ := fun s hs => by
    have hexec := withBuiltPacket_idle (buildGain s.params.gainCodes g) replyPacket hs
    rwa [packetOfWord_buildGain] at hexec
  exact ⟨hbytes, hbytes .a1b2⟩

/-- Settles O30: the bytes are those of its build. -/
theorem encSwLatchReturnsItsPacket : Obligations.EncSwLatchReturnsItsPacket :=
  encodes_of_exec exec_swLatch packetOfWord_buildSwLatch

/-- Settles O31: the bytes are those of its build for each mode and selector. -/
theorem encPowerReturnsItsBytes : Obligations.EncPowerReturnsItsBytes := fun m sel =>
  encodes_of_exec (fun _ => rfl) (packetOfWord_buildPower m sel)

/-- Settles O32: the bytes are those of its build. -/
theorem encResetReturnsItsBytes : Obligations.EncResetReturnsItsBytes := fun r =>
  encodes_of_exec (fun _ => rfl) (packetOfWord_buildReset r)

/-- Settles O36: the word that an encode operation builds is its row's encoding. -/
theorem encodeOpsReturnTheTableWord : Obligations.EncodeOpsReturnTheTableWord := fun _ hi s hs =>
  (exec_encodeOp hi s).trans (withBuiltPacket_idle _ replyPacket hs)

/-- An encode operation that hands out the packet of `w` in one Idle state is encoded as `w`. -/
theorem encode_of_reply {i : Instr} (hi : isEncodeOp i = true) {s : State} (hs : s.phase = .idle)
    {w : PacketWord} (h : exec i s = .next { s with replies := s.replies ++ [.packet (packetOfWord w)] }) :
    encode s.params.gainCodes i = w := by
  have hstate := (encodeOpsReturnTheTableWord i hi s hs).symm.trans h
  have hpacket : packetOfWord (encode s.params.gainCodes i) = packetOfWord w := by
    simpa using hstate
  rw [← wordOfPacket_packetOfWord (encode s.params.gainCodes i), hpacket, wordOfPacket_packetOfWord]

/-- Settles O37: a word of the table is the encoding of an operation, which returns it; and an operation that
returns it, from the state after reset with these GAIN codes, is encoded as it. -/
theorem encodeOpsReturnExactlyEncodeWords : Obligations.EncodeOpsReturnExactlyEncodeWords := by
  intro t w
  rw [isEncodeWord_iff t]
  constructor
  · rintro ⟨i, hi, rfl⟩
    refine ⟨i, hi, fun s hs ht => ?_⟩
    rw [← ht]
    exact encodeOpsReturnTheTableWord i hi s hs
  · rintro ⟨i, hi, h⟩
    exact ⟨i, hi, encode_of_reply (s := State.resetWith ⟨t, false, .low⟩) hi rfl (h _ rfl rfl)⟩

/-! ## The device operations -/

/-- Settles O39: initialize frames the build of ENC_RESET. -/
theorem initializeFramesResetAll : Obligations.InitializeFramesResetAll :=
  deviceOpFrames_of_exec (fun _ => rfl) (packetOfWord_buildReset .all)

/-- Settles O40: set_power frames the build of ENC_POWER. -/
theorem setPowerFramesPowerPacket : Obligations.SetPowerFramesPowerPacket := fun m sel =>
  deviceOpFrames_of_exec (fun _ => rfl) (packetOfWord_buildPower m sel)

/-- Settles O41: write and ENC_WRITE_N build the same word. -/
theorem writeFramesWriteNPacket : Obligations.WriteFramesWriteNPacket := fun v ch =>
  ⟨deviceOpFrames_of_exec (fun _ => rfl) (packetOfWord_buildData_writeN ch v), fun _ hs =>
    ⟨packetOfWord (buildData .writeN ch v), withBuiltPacket_idle _ replyPacket hs,
      withBuiltPacket_idle _ runTxn hs⟩⟩

/-- Settles O46: a device operation is a transaction in Idle, which hands out one result and keeps the phase. -/
theorem deviceOpsReturnOneResult : Obligations.DeviceOpsReturnOneResult := by
  intro i s t hi ht
  obtain ⟨w, hw⟩ := exec_deviceOp hi
  obtain ⟨hs, rfl⟩ := withBuiltPacket_next ((hw s).symm.trans ht)
  obtain ⟨hparams, -, -, hrequests⟩ := runTxn_appends (packetOfWord w) s
  have hidle : (runTxn (packetOfWord w) s).phase = .idle := (runTxn_phase _ s).trans hs
  refine ⟨hidle, hparams, hrequests, runTxn_replies _ s, fun j hj => ?_⟩
  obtain ⟨w', hw'⟩ := exec_deviceOp hj
  exact ⟨_, (hw' _).trans (withBuiltPacket_idle w' runTxn hidle)⟩

/-! ## Reset -/

/-- Settles O56: after reset the encoder is Idle, where NEW and the device operations complete. -/
theorem resetIsIdleAndAcceptsRequests : Obligations.ResetIsIdleAndAcceptsRequests := by
  refine ⟨rfl, fun p => ⟨rfl, ?_⟩⟩
  rintro i (rfl | hi)
  · exact exec_wholeBuild_idle (i := .new) rfl rfl
  · obtain ⟨w, hw⟩ := exec_deviceOp hi
    exact ⟨_, (hw _).trans (withBuiltPacket_idle w runTxn rfl)⟩

/-- Settles O57: the assertion overwrites the level, and nothing before it reads the level. -/
theorem csAtResetIsTheParameter : Obligations.CsAtResetIsTheParameter := by
  refine fun p => ⟨fun h => ?_, fun h => ?_, fun pkt s l => ?_⟩
  · rw [State.resetWith, h]; rfl
  · rw [State.resetWith, h]; rfl
  · have hassert : assertAndSend pkt { s with cs := l } = assertAndSend pkt s := rfl
    rw [runTxn, hassert]
    rfl

end Sys2Proof.Machine
end

section
/-! A step as the work of its request (10_state.md R26, 20_memory.md R51, 42_device_operations.md R174). -/

namespace Sys2Proof.Machine

section

variable {s : State} {r : Request} {rest : List Request}

theorem step_run {i : Instr} (hr : s.requests = r :: rest) (hw : workOf s.params.gainCodes r = .run i) :
    step s = exec i (s.withRequests rest) := by simp only [step, hr, hw]

theorem step_frame {p : Packet} (hr : s.requests = r :: rest) (hw : workOf s.params.gainCodes r = .frame p) :
    step s = .next (runTxn p (s.withRequests rest)) := by simp only [step, hr, hw]

theorem step_refuse {why : Refusal} (hr : s.requests = r :: rest)
    (hw : workOf s.params.gainCodes r = .refuse why) : step s = .refused why := by simp only [step, hr, hw]

end

/-- Settles O47: in each form of request the work is that of the decoder's answer. -/
theorem stepRunsTheDecodedRequest : Obligations.StepRunsTheDecodedRequest := by
  intro s rest i why
  refine ⟨fun hr => step_run hr rfl, fun r w hr => ⟨fun hd => ?_, fun hd => ?_⟩,
    fun bs hr => ⟨fun hd => ?_, fun hd => ?_⟩, fun nbits w hd => ?_⟩
  · exact step_run hr (congrArg workOfDecoded hd)
  · exact step_refuse hr (congrArg workOfDecoded hd)
  · exact step_run hr (congrArg workOfDecoded hd)
  · exact step_refuse hr (congrArg workOfDecoded hd)
  · exact step_run (s := s.withFetchWord nbits w) rfl (congrArg workOfDecoded hd)

/-- Settles O48: a packet is framed or refused as its word is in the builder set or not. -/
theorem stepOnTheOtherRequests : Obligations.StepOnTheOtherRequests := by
  intro s rest
  refine ⟨fun hr => by simp only [step, hr], fun p hr hp => ?_, fun p hr hp => ?_,
    fun i hr => step_refuse hr rfl⟩
  · obtain ⟨-, hwork⟩ | ⟨hp', -⟩ := workOf_txn s.params.gainCodes p
    · exact step_frame hr hwork
    · cases hp.symm.trans hp'
  · obtain ⟨hp', -⟩ | ⟨-, why, hwork⟩ := workOf_txn s.params.gainCodes p
    · cases hp.symm.trans hp'
    · exact ⟨why, step_refuse hr hwork⟩

/-- Settles O49: the bytes are read as the word they come from, and its decoding is the operation. -/
theorem packetBytesRunTheirEncodeOp : Obligations.PacketBytesRunTheirEncodeOp := by
  intro s rest i hi hr
  have hdecode : decodeBytes s.params.gainCodes (packetBytes (packetOfWord (encode s.params.gainCodes i))) =
      .instr i := by
    rw [packetBytes, decodeBytes, wordOfPacket_packetOfWord]
    exact (decodePacketInvertsEncode _ _ i).2 ⟨hi, rfl⟩
  exact step_run hr (congrArg workOfDecoded hdecode)

end Sys2Proof.Machine
end
